-- ==== Sys2Proof/Word.lean ====
section
/-! DEFINITION. The word types of the core (spec/00_scope.md R6, R8): every register, memory cell and field is unsigned. -/

namespace Sys2Proof

/-- `u8`: a general register, a timer, a memory cell, an immediate (R6 `REG_W`). -/
abbrev Byte := BitVec 8

/-- `u16`: I, PC, a stack entry, an instruction word (R6 `I_W`, `PC_W`, `STACK_ENTRY_W`, `INSN_W`). -/
abbrev Word := BitVec 16

/-- `u12`: the address embedded in an instruction (R71 `nnn`). -/
abbrev Addr := BitVec 12

/-- The index of a general register: a 4-bit instruction field, "hence always in [0,15]" (R21). -/
abbrev Reg := Fin 16

/-- `trunc_8(v)`: reduction mod 256 (R8). -/
abbrev trunc8 (v : Nat) : Byte := BitVec.ofNat 8 v

/-- `trunc_16(v)`: reduction mod 65536 (R8). -/
abbrev trunc16 (v : Nat) : Word := BitVec.ofNat 16 v

end Sys2Proof
end

