-- ==== Sys2Proof/Config.lean ====
section
/-! DEFINITION. What is fixed for one core: the implementation parameters of spec/00_scope.md R6, the fixed constants
beside them, and the free draws of the host's inputs (spec/46_optional_standard.md R260, R261). -/

namespace Sys2Proof

/-- The nine members `EXT_OPS` may contain (R6, R250). -/
inductive ExtOp where
  | addImm | jpV0 | rnd | skp | sknp | ldVxDt | ldVxK | addI | ldF
  deriving DecidableEq, Repr

/-- The parameter `EXT_OPS`: a subset of the nine members, empty by default (R6, R7). -/
structure ExtOps where
  addImm : Bool := false
  jpV0   : Bool := false
  rnd    : Bool := false
  skp    : Bool := false
  sknp   : Bool := false
  ldVxDt : Bool := false
  ldVxK  : Bool := false
  addI   : Bool := false
  ldF    : Bool := false
  deriving DecidableEq, Repr

/-- `EXT_OPS = {}`, the default configuration (R7). -/
def ExtOps.none : ExtOps := {}

/-- Every member enabled (R78, last sentence). -/
def ExtOps.all : ExtOps :=
  { addImm := true, jpV0 := true, rnd := true, skp := true, sknp := true, ldVxDt := true, ldVxK := true, addI := true,
    ldF := true }

/-- Membership in `EXT_OPS`. -/
def ExtOps.has (e : ExtOps) : ExtOp → Bool
  | .addImm => e.addImm
  | .jpV0   => e.jpV0
  | .rnd    => e.rnd
  | .skp    => e.skp
  | .sknp   => e.sknp
  | .ldVxDt => e.ldVxDt
  | .ldVxK  => e.ldVxK
  | .addI   => e.addI
  | .ldF    => e.ldF

/-- `EXT_OPS` with one more member. -/
def ExtOps.enable (e : ExtOps) : ExtOp → ExtOps
  | .addImm => { e with addImm := true }
  | .jpV0   => { e with jpV0 := true }
  | .rnd    => { e with rnd := true }
  | .skp    => { e with skp := true }
  | .sknp   => { e with sknp := true }
  | .ldVxDt => { e with ldVxDt := true }
  | .ldVxK  => { e with ldVxK := true }
  | .addI   => { e with addI := true }
  | .ldF    => { e with ldF := true }

/-- The 80 glyph bytes of the parameter `FONT` (R6 `FONT_LEN`, R33). -/
abbrev Font := Vector Byte 80

/-- The implementation parameters: "a model takes the ones marked parameter as arguments" (R6). -/
structure Config where
  extOps : ExtOps
  font   : Font
  deriving DecidableEq, Repr

/-- The sixteen glyphs of R33, five rows each, glyph `k` at `0x050 + 5k`.
PRESUMED (log entry 2): the table is the spec's default, which the spec itself takes from general knowledge. Unsafe. -/
def Config.glyphs : List (List Byte) :=
  [[0xF0, 0x90, 0x90, 0x90, 0xF0], [0x20, 0x60, 0x20, 0x20, 0x70], [0xF0, 0x10, 0xF0, 0x80, 0xF0], [0xF0, 0x10, 0xF0, 0x10, 0xF0]] ++
  [[0x90, 0x90, 0xF0, 0x10, 0x10], [0xF0, 0x80, 0xF0, 0x10, 0xF0], [0xF0, 0x80, 0xF0, 0x90, 0xF0], [0xF0, 0x10, 0x20, 0x40, 0x40]] ++
  [[0xF0, 0x90, 0xF0, 0x90, 0xF0], [0xF0, 0x90, 0xF0, 0x10, 0xF0], [0xF0, 0x90, 0xF0, 0x90, 0x90], [0xE0, 0x90, 0xE0, 0x90, 0xE0]] ++
  [[0xF0, 0x80, 0x80, 0x80, 0xF0], [0xE0, 0x90, 0x90, 0x90, 0xE0], [0xF0, 0x80, 0xF0, 0x80, 0xF0], [0xF0, 0x80, 0xF0, 0x80, 0x80]]

/-- The default value of `FONT` (R7, R33). -/
def Config.defaultFont : Font := ⟨Config.glyphs.flatten.toArray, rfl⟩

/-- The default configuration: `EXT_OPS = {}` and `FONT` the table of R33 (R7). -/
def Config.default : Config := { extOps := ExtOps.none, font := Config.defaultFont }

/-- `MEM_SIZE`: addresses 0x000 to 0xFFF (R6). -/
abbrev Config.memSize : Nat := 4096
/-- `STACK_DEPTH` (R6). -/
abbrev Config.stackDepth : Nat := 16
/-- `FB_W` (R6). -/
abbrev Config.fbWidth : Nat := 64
/-- `FB_H` (R6). -/
abbrev Config.fbHeight : Nat := 32
/-- `FONT_BASE` (R6). -/
abbrev Config.fontBase : Nat := 0x050
/-- `FONT_LEN` (R6). -/
abbrev Config.fontLen : Nat := 80
/-- `PROG_BASE`: the reset value of PC and the load address (R6). -/
abbrev Config.progBase : Nat := 0x200
/-- `MAX_ROM = 4096 − 0x200` (R6). -/
abbrev Config.maxRom : Nat := 3584

/-- The `n`-th sample of the input `keys[15:0]`, when the host has left no sample waiting: a free draw "under no law"
(R260). Free value, log entry 6. -/
opaque Config.keysDraw : Nat → BitVec 16

/-- The `n`-th sample of the input `rnd[7:0]`, when the host has left no sample waiting: a free draw (R261).
Free value, log entry 6. -/
opaque Config.rndDraw : Nat → Byte

/-- Which of its two values a framebuffer cell shows to a read made while the running CLS or DRW changes it: "either its
old value or its new value, unspecified which" (R103). Free value, log entry 11. -/
opaque Config.busyCellIsNew : Nat → Bool

/-- What the `View` ports show (R105). -/
structure View where
  v     : Vector Byte 16
  idx   : Word
  pc    : Word
  sp    : Fin 17
  stk   : Vector Word 16
  dt    : Byte
  st    : Byte
  mdata : Byte
  deriving DecidableEq, Repr, Inhabited

/-- What the `View` ports show while busy: "their values are unspecified" (R105). Free value, log entry 11. -/
opaque Config.busyView : Nat → View

end Sys2Proof
end

