-- ==== Sys2Proof/Syntax.lean ====
section
/-! DEFINITION. The instructions: one constructor per row of spec/opcode_table.json, its arguments the row's fields
(spec/30_encoding.md R71, R75; spec/46_optional_standard.md R250). -/

namespace Sys2Proof

/-- The 25 instructions of R75 and the nine `EXT_OPS` members of R250. `x`, `y` are register indices, `nn` a byte, `nnn` a
12-bit address, `n` the sprite height. -/
inductive Instr where
  /-- CLS (0__0), R210 -/
  | cls
  /-- RET (0__E), R142 -/
  | ret
  /-- JP addr (1NNN), R140 -/
  | jp (nnn : Addr)
  /-- CALL addr (2NNN), R141 -/
  | call (nnn : Addr)
  /-- SE Vx, byte (3XNN), R143 -/
  | seByte (x : Reg) (nn : Byte)
  /-- SNE Vx, byte (4XNN), R144 -/
  | sneByte (x : Reg) (nn : Byte)
  /-- SE Vx, Vy (5XY_), R145 -/
  | seReg (x y : Reg)
  /-- LD Vx, byte (6XNN), R163 -/
  | ldByte (x : Reg) (nn : Byte)
  /-- LD Vx, Vy (8XY0), R164 -/
  | ldReg (x y : Reg)
  /-- OR Vx, Vy (8XY1), R165 -/
  | orReg (x y : Reg)
  /-- AND Vx, Vy (8XY2), R166 -/
  | andReg (x y : Reg)
  /-- XOR Vx, Vy (8XY3), R167 -/
  | xorReg (x y : Reg)
  /-- ADD Vx, Vy (8XY4), R168 -/
  | addReg (x y : Reg)
  /-- SUB Vx, Vy (8XY5), R169 -/
  | subReg (x y : Reg)
  /-- SHR Vx (8X_6), R171 -/
  | shr (x : Reg)
  /-- SUBN Vx, Vy (8XY7), R170 -/
  | subn (x y : Reg)
  /-- SHL Vx (8X_E), R172 -/
  | shl (x : Reg)
  /-- SNE Vx, Vy (9XY_), R146 -/
  | sneReg (x y : Reg)
  /-- LD I, addr (ANNN), R190 -/
  | ldI (nnn : Addr)
  /-- DRW Vx, Vy, nibble (DXYN), R211 -/
  | drw (x y : Reg) (n : Fin 16)
  /-- LD DT, Vx (FX15), R230 -/
  | ldDT (x : Reg)
  /-- LD ST, Vx (FX18), R231 -/
  | ldST (x : Reg)
  /-- LD B, Vx (FX33), R192 -/
  | ldB (x : Reg)
  /-- LD [I], Vx (FX55), the register dump, R193 -/
  | dump (x : Reg)
  /-- LD Vx, [I] (FX65), the register load, R194 -/
  | load (x : Reg)
  /-- ADD Vx, byte (7XNN), `EXT_OPS` member ADD_IMM, R251 -/
  | addByte (x : Reg) (nn : Byte)
  /-- JP V0, addr (BNNN), `EXT_OPS` member JP_V0, R252 -/
  | jpV0 (nnn : Addr)
  /-- RND Vx, byte (CXNN), `EXT_OPS` member RND, R253 -/
  | rnd (x : Reg) (nn : Byte)
  /-- SKP Vx (EX9E), `EXT_OPS` member SKP, R254 -/
  | skp (x : Reg)
  /-- SKNP Vx (EXA1), `EXT_OPS` member SKNP, R255 -/
  | sknp (x : Reg)
  /-- LD Vx, DT (FX07), `EXT_OPS` member LD_VX_DT, R256 -/
  | ldVxDT (x : Reg)
  /-- LD Vx, K (FX0A), `EXT_OPS` member LD_VX_K, R257 -/
  | ldVxK (x : Reg)
  /-- ADD I, Vx (FX1E), `EXT_OPS` member ADD_I, R258 -/
  | addI (x : Reg)
  /-- LD F, Vx (FX29), `EXT_OPS` member LD_F, R259 -/
  | ldF (x : Reg)
  deriving DecidableEq, Repr

end Sys2Proof
end

