-- ==== Sys2Proof/WellFormed.lean ====
section
/-! DEFINITION. Which instructions a core has: the 25 of spec/30_encoding.md R75 always, an `EXT_OPS` member only where the
configuration enables it (spec/46_optional_standard.md R250). The ranges of the fields are in the types of Instr. -/

namespace Sys2Proof

/-- The `EXT_OPS` member an instruction belongs to, none for the 25 of R75. -/
def Instr.member : Instr → Option ExtOp
  | .cls => none
  | .ret => none
  | .jp _ => none
  | .call _ => none
  | .seByte _ _ => none
  | .sneByte _ _ => none
  | .seReg _ _ => none
  | .ldByte _ _ => none
  | .ldReg _ _ => none
  | .orReg _ _ => none
  | .andReg _ _ => none
  | .xorReg _ _ => none
  | .addReg _ _ => none
  | .subReg _ _ => none
  | .shr _ => none
  | .subn _ _ => none
  | .shl _ => none
  | .sneReg _ _ => none
  | .ldI _ => none
  | .drw _ _ _ => none
  | .ldDT _ => none
  | .ldST _ => none
  | .ldB _ => none
  | .dump _ => none
  | .load _ => none
  | .addByte _ _ => some .addImm
  | .jpV0 _ => some .jpV0
  | .rnd _ _ => some .rnd
  | .skp _ => some .skp
  | .sknp _ => some .sknp
  | .ldVxDT _ => some .ldVxDt
  | .ldVxK _ => some .ldVxK
  | .addI _ => some .addI
  | .ldF _ => some .ldF

/-- An instruction is well-formed for a core whose `EXT_OPS` is `e` when it is one of the 25, or its member is enabled. -/
def Instr.wellFormed (e : ExtOps) (i : Instr) : Bool :=
  match i.member with
  | none => true
  | some m => e.has m

end Sys2Proof
end

