-- ==== Sys2Proof/Decode.lean ====
section
/-! DEFINITION. The decoder (spec/30_encoding.md R70 to R80), the encoder of the canonical words (R81), the opcode table as
data (R75, R250) and the assembler forms (R81, R82). -/

namespace Sys2Proof

/-! ## Fields of a word (R71) -/

/-- `t = w[15:12]`, the top nibble. -/
def fieldT (w : Word) : Fin 16 := (w.extractLsb' 12 4).toFin
/-- `x = w[11:8]`, the first register index. -/
def fieldX (w : Word) : Fin 16 := (w.extractLsb' 8 4).toFin
/-- `y = w[7:4]`, the second register index. -/
def fieldY (w : Word) : Fin 16 := (w.extractLsb' 4 4).toFin
/-- `n = w[3:0]`, the low nibble. -/
def fieldN (w : Word) : Fin 16 := (w.extractLsb' 0 4).toFin
/-- `nn = w[7:0]`, the low byte. -/
def fieldNN (w : Word) : Byte := w.extractLsb' 0 8
/-- `nnn = w[11:0]`, the embedded address. -/
def fieldNNN (w : Word) : Addr := w.extractLsb' 0 12

/-! ## Decoding -/

/-- Why the decoder gives no instruction: "unknown top nibble or unknown secondary key" (R76), or fewer than the two bytes
a decoder always consumes (R70). -/
inductive DecodeReject where
  /-- the top nibble selects no instruction of this configuration (R72) -/
  | unknownTopNibble (w : Word)
  /-- the low nibble or low byte selects no instruction of its family (R73, R74, R78) -/
  | unknownKey (w : Word)
  /-- fewer than two bytes were given -/
  | truncated
  deriving DecidableEq, Repr

/-- An entry of the lookup that only `EXT_OPS` opens (R78). -/
def ifEnabled (enabled : Bool) (i : Instr) (r : DecodeReject) : Except DecodeReject Instr :=
  if enabled then .ok i else .error r

/-- Family 0x0, keyed on the low nibble alone (R73). -/
def decodeFamily0 (w : Word) : Except DecodeReject Instr :=
  match (fieldN w).val with
  | 0x0 => .ok .cls
  | 0xE => .ok .ret
  | _ => .error (.unknownKey w)

/-- Family 0x8, keyed on the low nibble (R74). -/
def decodeFamily8 (w : Word) : Except DecodeReject Instr :=
  match (fieldN w).val with
  | 0x0 => .ok (.ldReg (fieldX w) (fieldY w))
  | 0x1 => .ok (.orReg (fieldX w) (fieldY w))
  | 0x2 => .ok (.andReg (fieldX w) (fieldY w))
  | 0x3 => .ok (.xorReg (fieldX w) (fieldY w))
  | 0x4 => .ok (.addReg (fieldX w) (fieldY w))
  | 0x5 => .ok (.subReg (fieldX w) (fieldY w))
  | 0x6 => .ok (.shr (fieldX w))
  | 0x7 => .ok (.subn (fieldX w) (fieldY w))
  | 0xE => .ok (.shl (fieldX w))
  | _ => .error (.unknownKey w)

/-- Family 0xE, keyed on the low byte, unknown as a whole unless SKP or SKNP is enabled (R72, R78). -/
def decodeFamilyE (e : ExtOps) (w : Word) : Except DecodeReject Instr :=
  if e.skp || e.sknp then
    match (fieldNN w).toNat with
    | 0x9E => ifEnabled e.skp (.skp (fieldX w)) (.unknownKey w)
    | 0xA1 => ifEnabled e.sknp (.sknp (fieldX w)) (.unknownKey w)
    | _ => .error (.unknownKey w)
  else .error (.unknownTopNibble w)

/-- Family 0xF, keyed on the low byte (R74, R78). -/
def decodeFamilyF (e : ExtOps) (w : Word) : Except DecodeReject Instr :=
  match (fieldNN w).toNat with
  | 0x07 => ifEnabled e.ldVxDt (.ldVxDT (fieldX w)) (.unknownKey w)
  | 0x0A => ifEnabled e.ldVxK (.ldVxK (fieldX w)) (.unknownKey w)
  | 0x15 => .ok (.ldDT (fieldX w))
  | 0x18 => .ok (.ldST (fieldX w))
  | 0x1E => ifEnabled e.addI (.addI (fieldX w)) (.unknownKey w)
  | 0x29 => ifEnabled e.ldF (.ldF (fieldX w)) (.unknownKey w)
  | 0x33 => .ok (.ldB (fieldX w))
  | 0x55 => .ok (.dump (fieldX w))
  | 0x65 => .ok (.load (fieldX w))
  | _ => .error (.unknownKey w)

/-- The primary dispatch on the top nibble (R72), a total function of the word and `EXT_OPS` (R80). -/
def decodeWord (e : ExtOps) (w : Word) : Except DecodeReject Instr :=
  match (fieldT w).val with
  | 0x0 => decodeFamily0 w
  | 0x1 => .ok (.jp (fieldNNN w))
  | 0x2 => .ok (.call (fieldNNN w))
  | 0x3 => .ok (.seByte (fieldX w) (fieldNN w))
  | 0x4 => .ok (.sneByte (fieldX w) (fieldNN w))
  | 0x5 => .ok (.seReg (fieldX w) (fieldY w))
  | 0x6 => .ok (.ldByte (fieldX w) (fieldNN w))
  | 0x7 => ifEnabled e.addImm (.addByte (fieldX w) (fieldNN w)) (.unknownTopNibble w)
  | 0x8 => decodeFamily8 w
  | 0x9 => .ok (.sneReg (fieldX w) (fieldY w))
  | 0xA => .ok (.ldI (fieldNNN w))
  | 0xB => ifEnabled e.jpV0 (.jpV0 (fieldNNN w)) (.unknownTopNibble w)
  | 0xC => ifEnabled e.rnd (.rnd (fieldX w) (fieldNN w)) (.unknownTopNibble w)
  | 0xD => .ok (.drw (fieldX w) (fieldY w) (fieldN w))
  | 0xE => decodeFamilyE e w
  | _ => decodeFamilyF e w

/-- A word from its two bytes, big-endian: the byte at the lower address is bits 15:8 (R52). -/
def wordOfBytes (hi lo : Byte) : Word := hi ++ lo

/-- The byte at the lower address (R52). -/
def highByte (w : Word) : Byte := w.extractLsb' 8 8
/-- The byte at the higher address (R52). -/
def lowByte (w : Word) : Byte := w.extractLsb' 0 8

/-- The decoder on bytes: it always consumes two (R70) and returns the rest. -/
def decode (e : ExtOps) : List Byte → Except DecodeReject (Instr × List Byte)
  | hi :: lo :: rest =>
    match decodeWord e (wordOfBytes hi lo) with
    | .ok i => .ok (i, rest)
    | .error r => .error r
  | [_] => .error .truncated
  | [] => .error .truncated

/-- The instruction the decoder reads from a table word: its bytes laid out as the hardware stores them, with every
`EXT_OPS` member enabled, so that the nine rows of R250 are read too (log entry 1). -/
def decodeTableWord (nbits w : Nat) : Option Instr :=
  let word : Word := BitVec.ofNat 16 (w % 2 ^ nbits)
  match decode ExtOps.all [highByte word, lowByte word] with
  | .ok (i, _) => some i
  | .error _ => none

/-! ## Encoding -/

/-- A word from its four nibbles. -/
def packNibbles (t x y n : Fin 16) : Word := trunc16 (t.val * 4096 + x.val * 256 + y.val * 16 + n.val)
/-- A word from its top nibble, register field and low byte. -/
def packByte (t x : Fin 16) (nn : Byte) : Word := trunc16 (t.val * 4096 + x.val * 256 + nn.toNat)
/-- A word from its top nibble and embedded address. -/
def packAddr (t : Fin 16) (nnn : Addr) : Word := trunc16 (t.val * 4096 + nnn.toNat)

/-- The canonical word of an instruction, every ignored bit as R81's table has it. -/
def encode : Instr → Word
  | .cls => 0x00E0
  | .ret => 0x00EE
  | .jp nnn => packAddr 0x1 nnn
  | .call nnn => packAddr 0x2 nnn
  | .seByte x nn => packByte 0x3 x nn
  | .sneByte x nn => packByte 0x4 x nn
  | .seReg x y => packNibbles 0x5 x y 0x0
  | .ldByte x nn => packByte 0x6 x nn
  | .ldReg x y => packNibbles 0x8 x y 0x0
  | .orReg x y => packNibbles 0x8 x y 0x1
  | .andReg x y => packNibbles 0x8 x y 0x2
  | .xorReg x y => packNibbles 0x8 x y 0x3
  | .addReg x y => packNibbles 0x8 x y 0x4
  | .subReg x y => packNibbles 0x8 x y 0x5
  | .shr x => packNibbles 0x8 x 0x0 0x6
  | .subn x y => packNibbles 0x8 x y 0x7
  | .shl x => packNibbles 0x8 x 0x0 0xE
  | .sneReg x y => packNibbles 0x9 x y 0x0
  | .ldI nnn => packAddr 0xA nnn
  | .drw x y n => packNibbles 0xD x y n
  | .ldDT x => packByte 0xF x 0x15
  | .ldST x => packByte 0xF x 0x18
  | .ldB x => packByte 0xF x 0x33
  | .dump x => packByte 0xF x 0x55
  | .load x => packByte 0xF x 0x65
  | .addByte x nn => packByte 0x7 x nn
  | .jpV0 nnn => packAddr 0xB nnn
  | .rnd x nn => packByte 0xC x nn
  | .skp x => packByte 0xE x 0x9E
  | .sknp x => packByte 0xE x 0xA1
  | .ldVxDT x => packByte 0xF x 0x07
  | .ldVxK x => packByte 0xF x 0x0A
  | .addI x => packByte 0xF x 0x1E
  | .ldF x => packByte 0xF x 0x29

/-! ## The opcode table as data -/

/-- The match and mask of an instruction's row (R75, R250): a word is the row's when `w AND mask = match`. -/
def Instr.matchMask : Instr → Word × Word
  | .cls => (0x0000, 0xF00F)
  | .ret => (0x000E, 0xF00F)
  | .jp _ => (0x1000, 0xF000)
  | .call _ => (0x2000, 0xF000)
  | .seByte _ _ => (0x3000, 0xF000)
  | .sneByte _ _ => (0x4000, 0xF000)
  | .seReg _ _ => (0x5000, 0xF000)
  | .ldByte _ _ => (0x6000, 0xF000)
  | .ldReg _ _ => (0x8000, 0xF00F)
  | .orReg _ _ => (0x8001, 0xF00F)
  | .andReg _ _ => (0x8002, 0xF00F)
  | .xorReg _ _ => (0x8003, 0xF00F)
  | .addReg _ _ => (0x8004, 0xF00F)
  | .subReg _ _ => (0x8005, 0xF00F)
  | .shr _ => (0x8006, 0xF00F)
  | .subn _ _ => (0x8007, 0xF00F)
  | .shl _ => (0x800E, 0xF00F)
  | .sneReg _ _ => (0x9000, 0xF000)
  | .ldI _ => (0xA000, 0xF000)
  | .drw _ _ _ => (0xD000, 0xF000)
  | .ldDT _ => (0xF015, 0xF0FF)
  | .ldST _ => (0xF018, 0xF0FF)
  | .ldB _ => (0xF033, 0xF0FF)
  | .dump _ => (0xF055, 0xF0FF)
  | .load _ => (0xF065, 0xF0FF)
  | .addByte _ _ => (0x7000, 0xF000)
  | .jpV0 _ => (0xB000, 0xF000)
  | .rnd _ _ => (0xC000, 0xF000)
  | .skp _ => (0xE09E, 0xF0FF)
  | .sknp _ => (0xE0A1, 0xF0FF)
  | .ldVxDT _ => (0xF007, 0xF0FF)
  | .ldVxK _ => (0xF00A, 0xF0FF)
  | .addI _ => (0xF01E, 0xF0FF)
  | .ldF _ => (0xF029, 0xF0FF)

/-- A row of the opcode map: its match, its mask and the `EXT_OPS` member that opens it. -/
structure OpRow where
  mat    : Word
  mask   : Word
  member : Option ExtOp
  deriving DecidableEq, Repr

/-- Whether a word is a row's: `w AND mask == match` (R75). -/
def OpRow.covers (r : OpRow) (w : Word) : Bool := w &&& r.mask == r.mat

/-- The 25 rows of R75, in the order of the rule. -/
def baseRows : List OpRow :=
  [⟨0x0000, 0xF00F, none⟩, ⟨0x000E, 0xF00F, none⟩, ⟨0x1000, 0xF000, none⟩, ⟨0x2000, 0xF000, none⟩, ⟨0x3000, 0xF000, none⟩,
   ⟨0x4000, 0xF000, none⟩, ⟨0x5000, 0xF000, none⟩, ⟨0x6000, 0xF000, none⟩] ++
  [⟨0x8000, 0xF00F, none⟩, ⟨0x8001, 0xF00F, none⟩, ⟨0x8002, 0xF00F, none⟩, ⟨0x8003, 0xF00F, none⟩, ⟨0x8004, 0xF00F, none⟩,
   ⟨0x8005, 0xF00F, none⟩, ⟨0x8007, 0xF00F, none⟩, ⟨0x8006, 0xF00F, none⟩, ⟨0x800E, 0xF00F, none⟩] ++
  [⟨0x9000, 0xF000, none⟩, ⟨0xA000, 0xF000, none⟩, ⟨0xD000, 0xF000, none⟩, ⟨0xF015, 0xF0FF, none⟩, ⟨0xF018, 0xF0FF, none⟩,
   ⟨0xF033, 0xF0FF, none⟩, ⟨0xF055, 0xF0FF, none⟩, ⟨0xF065, 0xF0FF, none⟩]

/-- The nine rows of R250. -/
def extRows : List OpRow :=
  [⟨0x7000, 0xF000, some .addImm⟩, ⟨0xB000, 0xF000, some .jpV0⟩, ⟨0xC000, 0xF000, some .rnd⟩, ⟨0xE09E, 0xF0FF, some .skp⟩,
   ⟨0xE0A1, 0xF0FF, some .sknp⟩, ⟨0xF007, 0xF0FF, some .ldVxDt⟩, ⟨0xF00A, 0xF0FF, some .ldVxK⟩,
   ⟨0xF01E, 0xF0FF, some .addI⟩, ⟨0xF029, 0xF0FF, some .ldF⟩]

/-- The rows a core with `EXT_OPS = e` has (R78). -/
def rowsOf (e : ExtOps) : List OpRow :=
  baseRows ++ extRows.filter fun r => match r.member with
    | none => true
    | some m => e.has m

/-! ## The assembler forms -/

/-- What one line of a program listing may be: an instruction, `SHR Vx, Vy` or `SHL Vx, Vy` with the given `y`, or a data
byte `db 0x..` (R81). -/
inductive AsmItem where
  | instr (i : Instr)
  | shrWithY (x y : Reg)
  | shlWithY (x y : Reg)
  | db (b : Byte)
  deriving DecidableEq, Repr

/-- The two bytes of a word, in the order they lie in memory (R52). -/
def bytesOfWord (w : Word) : List Byte := [highByte w, lowByte w]

/-- The bytes an assembler emits for one item (R81): one word for an instruction (R82), a data byte verbatim. -/
def AsmItem.bytes : AsmItem → List Byte
  | .instr i => bytesOfWord (encode i)
  | .shrWithY x y => bytesOfWord (packNibbles 0x8 x y 0x6)
  | .shlWithY x y => bytesOfWord (packNibbles 0x8 x y 0xE)
  | .db b => [b]

/-- The ROM image of a listing. -/
def assemble (items : List AsmItem) : List Byte := items.flatMap AsmItem.bytes

/-- One hexadecimal digit. -/
def hexDigit (d : Nat) : Char := ['0', '1', '2', '3', '4', '5', '6', '7', '8', '9', 'A', 'B', 'C', 'D', 'E', 'F'].getD (d % 16) '0'

/-- A byte as `0x..` (R81). -/
def byteText (b : Byte) : List Char := ['0', 'x', hexDigit (b.toNat / 16), hexDigit b.toNat]
/-- An address as `0x...` (R81). -/
def addrText (a : Addr) : List Char := ['0', 'x', hexDigit (a.toNat / 256), hexDigit (a.toNat / 16), hexDigit a.toNat]
/-- A register as `V0` to `VF` (R81). -/
def regText (x : Reg) : List Char := ['V', hexDigit x.val]
/-- A sprite height as a number from 0 to 15 (R81). -/
def nibbleText (n : Fin 16) : List Char :=
  if n.val < 10 then [hexDigit n.val] else ['1', hexDigit (n.val - 10)]

/-- A mnemonic and its operands, separated as R81 writes them. -/
def formText (name : String) : List (List Char) → List Char
  | [] => name.toList
  | o :: os => name.toList ++ ' ' :: o ++ (os.map fun p => ',' :: ' ' :: p).flatten

/-- The spelling of an instruction in R81's notation, the `EXT_OPS` members as R250 spells them. -/
def Instr.text : Instr → List Char
  | .cls => formText "CLS" []
  | .ret => formText "RET" []
  | .jp nnn => formText "JP" [addrText nnn]
  | .call nnn => formText "CALL" [addrText nnn]
  | .seByte x nn => formText "SE" [regText x, byteText nn]
  | .sneByte x nn => formText "SNE" [regText x, byteText nn]
  | .seReg x y => formText "SE" [regText x, regText y]
  | .ldByte x nn => formText "LD" [regText x, byteText nn]
  | .ldReg x y => formText "LD" [regText x, regText y]
  | .orReg x y => formText "OR" [regText x, regText y]
  | .andReg x y => formText "AND" [regText x, regText y]
  | .xorReg x y => formText "XOR" [regText x, regText y]
  | .addReg x y => formText "ADD" [regText x, regText y]
  | .subReg x y => formText "SUB" [regText x, regText y]
  | .shr x => formText "SHR" [regText x]
  | .subn x y => formText "SUBN" [regText x, regText y]
  | .shl x => formText "SHL" [regText x]
  | .sneReg x y => formText "SNE" [regText x, regText y]
  | .ldI nnn => formText "LD" [['I'], addrText nnn]
  | .drw x y n => formText "DRW" [regText x, regText y, nibbleText n]
  | .ldDT x => formText "LD" [['D', 'T'], regText x]
  | .ldST x => formText "LD" [['S', 'T'], regText x]
  | .ldB x => formText "LD" [['B'], regText x]
  | .dump x => formText "LD" [['[', 'I', ']'], regText x]
  | .load x => formText "LD" [regText x, ['[', 'I', ']']]
  | .addByte x nn => formText "ADD" [regText x, byteText nn]
  | .jpV0 nnn => formText "JP" [['V', '0'], addrText nnn]
  | .rnd x nn => formText "RND" [regText x, byteText nn]
  | .skp x => formText "SKP" [regText x]
  | .sknp x => formText "SKNP" [regText x]
  | .ldVxDT x => formText "LD" [regText x, ['D', 'T']]
  | .ldVxK x => formText "LD" [regText x, ['K']]
  | .addI x => formText "ADD" [['I'], regText x]
  | .ldF x => formText "LD" [['F'], regText x]

/-- The spelling of one line of a listing (R81). -/
def AsmItem.text : AsmItem → List Char
  | .instr i => i.text
  | .shrWithY x y => formText "SHR" [regText x, regText y]
  | .shlWithY x y => formText "SHL" [regText x, regText y]
  | .db b => formText "db" [byteText b]

end Sys2Proof
end

