-- ==== Sys2Proof/Machine/State.lean ====
section
/-! DEFINITION. The state of the core (spec/10_state.md R20 to R36), as plain data: the architectural state of R20, the log of
reports R119 advises, the micro-architectural state of the control FSM (R35, R120), the implementation parameters (R6) and the
host's input samples (R260, R261). -/

namespace Sys2Proof.Machine

/-- The status codes of R31 and R300. Code 7 is reserved and never produced, so it has no name here. -/
inductive Code where
  /-- 0: the operation completed -/
  | ok
  /-- 1: no handler for the fetched word -/
  | unrecognizedOpcode
  /-- 2: CALL with 16 entries on the stack -/
  | stackOverflow
  /-- 3: RET with an empty stack -/
  | stackUnderflow
  /-- 4: an index window reaches above 0xFFF -/
  | memoryOutOfBounds
  /-- 5: a fetch with PC above 0x0FFE -/
  | fetchOutOfBounds
  /-- 6: a load of more than 3584 bytes -/
  | romTooLarge
  deriving DecidableEq, Repr

/-- The 3-bit number of a code (R31). -/
def Code.bits : Code → BitVec 3
  | .ok => 0
  | .unrecognizedOpcode => 1
  | .stackOverflow => 2
  | .stackUnderflow => 3
  | .memoryOutOfBounds => 4
  | .fetchOutOfBounds => 5
  | .romTooLarge => 6

/-- The result record of the last host operation that completed (R31). -/
structure Status where
  code : Code
  word : Word
  pc   : Word
  ea   : BitVec 17
  deriving DecidableEq, Repr

/-- `STATUS` after reset and after a successful load: code Ok, all other fields 0 (R34). -/
def Status.clear : Status := { code := .ok, word := 0, pc := 0, ea := 0 }

/-- The framebuffer: 32 rows of 64 one-bit cells, bit 63 of a row being column 0 (R29, R120). -/
abbrev Fb := Vector (BitVec 64) 32

/-- The memory: the cells that differ from the reset contents, addresses strictly rising (R30; log entry 13). -/
abbrev Memory := List Host.Cell

/-- The control states of the FSM (R120, R333). -/
inductive Ctl where
  | idle | fCheck | fHi | fLo | decode | ex1 | exMem | exCls | exDrw | unrec | commit | err | done
  | ldCheck | ldClear | ldCopy
  deriving DecidableEq, Repr

/-- The micro-architectural state (R35, R120): no program observes it. `ir` and `pcInsn` are the latched instruction word and
the address it was fetched from, which the atomic step uses too (R110, R113, R116). `fbHeld` is the framebuffer the read port shows
while a load runs, the committed one of R103 (log entry 20). -/
structure Hidden where
  ctl     : Ctl
  ir      : Word
  pcInsn  : Word
  pcNext  : Word
  row     : Nat
  col     : Nat
  coll    : Bool
  phase   : Nat
  k       : Nat
  ramByte : Byte
  sprite  : Byte
  ramRow  : BitVec 64
  pending : Status
  loadLen : BitVec 32
  fbHeld  : Fb
  deriving DecidableEq, Repr

/-- The control FSM after reset: `IDLE` (R34); the other registers at 0.
DESIGN CHOICE (log entry 9): the spec gives no reset value for them. Unsafe. -/
def Hidden.reset : Hidden :=
  { ctl := .idle, ir := 0, pcInsn := 0, pcNext := 0, row := 0, col := 0, coll := false, phase := 0, k := 0, ramByte := 0,
    sprite := 0, ramRow := 0, pending := Status.clear, loadLen := 0, fbHeld := Vector.replicate 32 0 }

/-- The host's input samples: those supplied and not yet taken, and the counter of the free draws taken when none is waiting
(R260, R261; log entry 6). -/
structure Env where
  keys  : List (BitVec 16)
  rnd   : List Byte
  draws : Nat
  deriving DecidableEq, Repr

/-- No sample waiting, no draw taken. DESIGN CHOICE (log entry 6): these are the model's own fields. -/
def Env.reset : Env := { keys := [], rnd := [], draws := 0 }

/-- The state of the core. `idx` is the index register I (R24); the other names are the spec's. -/
structure State where
  cfg    : Config
  v      : Vector Byte 16
  idx    : Word
  pc     : Word
  stk    : Vector Word 16
  sp     : Fin 17
  dt     : Byte
  st     : Byte
  fb     : Fb
  mem    : Memory
  status : Status
  log    : List Status
  hid    : Hidden
  env    : Env
  deriving DecidableEq, Repr

/-- The state after reset of a core with the parameters `cfg` (R34, R331). Memory lists nothing: every cell is at its reset
contents. -/
def State.resetWith (cfg : Config) : State :=
  { cfg := cfg, v := Vector.replicate 16 0, idx := 0, pc := 0x200, stk := Vector.replicate 16 0, sp := 0, dt := 0, st := 0,
    fb := Vector.replicate 32 0, mem := [], status := Status.clear, log := [], hid := Hidden.reset, env := Env.reset }

/-- The machine right after reset, in the default configuration (R7, R34). -/
def State.reset : State := State.resetWith Config.default

/-- Why the machine would stop. The spec gives no behaviour that stops it: "the core never halts by itself" (R117), and every
condition is reported in `STATUS` while the core goes on (R300, R303). So there is no fault (log entry 4: safe). -/
inductive Fault where
  deriving DecidableEq, Repr

/-- Why an instruction has no next state. -/
inductive Refusal where
  /-- raised by the dispatcher for an instruction that has no meaning yet; no arm does so. Safe: nothing follows it. -/
  | notModelled (mnemonic : String)
  deriving DecidableEq, Repr

/-- What a meaning answers. -/
abbrev Out := Host.Outcome State Fault Refusal

end Sys2Proof.Machine
end

