-- ==== Sys2Proof/Machine/Ops.lean ====
section
/-! DEFINITION. The named operations over memory, registers, stack, framebuffer and timers, reporting a condition, and the
fetch (spec/10_state.md, spec/20_memory.md, spec/40_step_cycle.md R110 to R116). -/

namespace Sys2Proof.Machine

/-! ## Memory (R11, R30, R50 to R56) -/

/-- What an address reads as when nothing has written it since reset: FONT at 0x050 to 0x09F, 0 elsewhere (R34). -/
def unlistedByte (font : Font) (a : Nat) : Byte :=
  if Config.fontBase ≤ a ∧ a < Config.fontBase + Config.fontLen then font[a - Config.fontBase]?.getD 0 else 0

/-- `MemRead(a, 1)` (R11). -/
def Memory.read (font : Font) : Memory → Nat → Byte
  | [], a => unlistedByte font a
  | (k, b) :: m, a => if k = a then b else Memory.read font m a

/-- The cell to list for the value `b` at `a`, none when `a` reads so unlisted. -/
def Memory.cell (font : Font) (a : Nat) (b : Byte) : Memory :=
  if b = unlistedByte font a then [] else [(a, b)]

/-- `MemWrite(a, 1, b)` (R11), keeping the canonical form. -/
def Memory.write (font : Font) : Memory → Nat → Byte → Memory
  | [], a, b => Memory.cell font a b
  | (k, c) :: m, a, b =>
    if a < k then Memory.cell font a b ++ (k, c) :: m
    else if a = k then Memory.cell font a b ++ m
    else (k, c) :: Memory.write font m a b

/-- Writes of consecutive bytes at ascending addresses (R53). -/
def Memory.writeBytes (font : Font) (m : Memory) (a : Nat) : List Byte → Memory
  | [] => m
  | b :: bs => Memory.writeBytes font (Memory.write font m a b) (a + 1) bs

/-- The canonical form from address `lo` on: addresses strictly rising, inside memory, no entry equal to what its address
reads as unlisted. -/
def Memory.wfFrom (font : Font) (lo : Nat) : Memory → Bool
  | [] => true
  | (k, b) :: m =>
    decide (lo ≤ k) && decide (k < Config.memSize) && decide (b ≠ unlistedByte font k) && Memory.wfFrom font (k + 1) m

/-- The canonical form: equal memories are equal lists. -/
def Memory.wf (font : Font) (m : Memory) : Bool := Memory.wfFrom font 0 m

/-- One byte of the state's memory. -/
def State.readByte (s : State) (a : Nat) : Byte := Memory.read s.cfg.font s.mem a

/-- Stores consecutive bytes into the state's memory. -/
def State.writeBytes (a : Nat) (bs : List Byte) (s : State) : State :=
  { s with mem := Memory.writeBytes s.cfg.font s.mem a bs }

/-- `check_window(a, b)` (R55): the effective address to report when `MEM[I+a] .. MEM[I+b]` reaches above 0xFFF. The sums are
over the naturals. -/
def State.windowFault (s : State) (a b : Nat) : Option Nat :=
  if s.idx.toNat + b > 0xFFF then some (max (s.idx.toNat + a) 0x1000) else none

/-! ## General registers (R21) -/

/-- `V[x]`. -/
def State.readV (s : State) (x : Reg) : Byte := s.v.get x

/-- `V[x] <- b`. -/
def State.writeV (x : Reg) (b : Byte) (s : State) : State := { s with v := s.v.set x b }

/-- The values of `V0..Vx`, ascending, the encoded register included (R191). -/
def State.regsUpTo (s : State) (x : Reg) : List Byte := s.v.toList.take (x.val + 1)

/-- `V[i] <- MemRead(I + i, 1)` for the registers `V0..Vx` (R194). -/
def State.loadRegs (x : Reg) (s : State) : State :=
  { s with v := Vector.ofFn fun r : Fin 16 => if r ≤ x then s.readByte (s.idx.toNat + r.val) else s.v.get r }

/-! ## The call stack (R27) -/

/-- `push(a)`, for `SP < 16`. -/
def State.push (a : Word) (s : State) : State :=
  { s with stk := s.stk.setIfInBounds s.sp.val a, sp := Fin.ofNat 17 (s.sp.val + 1) }

/-- The entry `pop()` returns, for `SP > 0`. -/
def State.top (s : State) : Word := s.stk[s.sp.val - 1]?.getD 0

/-- `SP <- SP - 1`, for `SP > 0`; the popped entry stays in place (R142). -/
def State.dropTop (s : State) : State := { s with sp := Fin.ofNat 17 (s.sp.val - 1) }

/-! ## The framebuffer (R29, R120) -/

/-- `ROW(r)` (R213). -/
def fbRow (fb : Fb) (r : Nat) : BitVec 64 := fb[r]?.getD 0

/-- `FB[c]`: cell `c` is column `c mod 64` of row `c / 64`, and bit 63 of a row is column 0. -/
def fbCell (fb : Fb) (c : Nat) : Bool := (fbRow fb (c / 64)).getLsbD (63 - c % 64)

/-- `FB(px, py)` is `FB[py*64 + px]` (R10). -/
def fbAt (fb : Fb) (px py : Nat) : Bool := fbCell fb (py * 64 + px)

/-- `ROW(r) <- row`. -/
def fbSetRow (fb : Fb) (r : Nat) (row : BitVec 64) : Fb := fb.setIfInBounds r row

/-- `FB[c] <- FB[c] XOR 1`. -/
def fbFlip (fb : Fb) (c : Nat) : Fb := fbSetRow fb (c / 64) (fbRow fb (c / 64) ^^^ BitVec.twoPow 64 (63 - c % 64))

/-! ## I, PC, the timers and the framebuffer as a whole -/

/-- `I <- a`. -/
def State.setIdx (a : Word) (s : State) : State := { s with idx := a }
/-- `PC <- a`. -/
def State.setPc (a : Word) (s : State) : State := { s with pc := a }
/-- `DT <- b`. -/
def State.setDT (b : Byte) (s : State) : State := { s with dt := b }
/-- `ST <- b`. -/
def State.setST (b : Byte) (s : State) : State := { s with st := b }
/-- The framebuffer replaced. -/
def State.setFb (fb : Fb) (s : State) : State := { s with fb := fb }

/-- The effect of a skip: `PC <- PC + 2` when its condition holds (R143). -/
def State.skipIf (c : Bool) (s : State) : State := { s with pc := if c then s.pc + 2 else s.pc }

/-! ## The host's input samples (R260, R261) -/

/-- The sample of `keys` this step takes: the next one the host supplied, else a free draw. -/
def State.keysSample (s : State) : BitVec 16 := s.env.keys.headD (Config.keysDraw s.env.draws)

/-- The sample of `rnd` this step takes: the next one the host supplied, else a free draw. -/
def State.rndSample (s : State) : Byte := s.env.rnd.headD (Config.rndDraw s.env.draws)

/-- The sample of `keys` is taken. -/
def State.takeKeys (s : State) : State := { s with env := { s.env with keys := s.env.keys.tail, draws := s.env.draws + 1 } }

/-- The sample of `rnd` is taken. -/
def State.takeRnd (s : State) : State := { s with env := { s.env with rnd := s.env.rnd.tail, draws := s.env.draws + 1 } }

/-! ## Timers (R28, R232) -/

/-- One counter after a tick: clamped at zero. -/
def tickCounter (t : Byte) : Byte := if t.toNat > 0 then trunc8 (t.toNat - 1) else t

/-! ## Reporting (R31, R113, R115, R116, R119)

The core has no trap: taking a condition is `State.raise`, which transfers no control, saves nothing and changes no mode
(R303); there is no return from it (R304). -/

/-- A report: into `STATUS`, and into the log, newest first (R119; log entry 5). -/
def State.report (r : Status) (s : State) : State := { s with status := r, log := r :: s.log }

/-- `raise c(ea)`: the error commit of R116. The fetch's advance of PC is discarded, nothing else has been written (R55: a
handler evaluates its guard before its first write), and the condition is reported with the latched word and `PC_insn`. -/
def State.raise (c : Code) (ea : Nat) (s : State) : State :=
  State.report { code := c, word := s.hid.ir, pc := s.hid.pcInsn, ea := BitVec.ofNat 17 ea } { s with pc := s.hid.pcInsn }

/-- The successful commit (R113): `STATUS <- {Ok, w, PC_insn, 0}`. -/
def State.commitOk (s : State) : State := { s with status := { code := .ok, word := s.hid.ir, pc := s.hid.pcInsn, ea := 0 } }

/-- The unrecognized word (R115): reported, PC stays advanced, nothing else changes. -/
def State.unrecognized (s : State) : State :=
  State.report { code := .unrecognizedOpcode, word := s.hid.ir, pc := s.hid.pcInsn, ea := 0 } s

/-! ## The fetch (R110) -/

/-- The output `busy`: 1 in every control state except IDLE (R120). -/
def State.busy (s : State) : Bool := s.hid.ctl != .idle

/-- The word at `PC`, big-endian, none when `PC > 0x0FFE` (R110). -/
def State.fetchWord (s : State) : Option Word :=
  if s.pc.toNat > 0x0FFE then none
  else some (wordOfBytes (s.readByte s.pc.toNat) (s.readByte (s.pc.toNat + 1)))

/-- After the fetch of `w`: the word and `PC_insn` are latched and `PC <- PC_insn + 2`. -/
def State.latch (w : Word) (s : State) : State :=
  { s with hid := { s.hid with ir := w, pcInsn := s.pc }, pc := s.pc + 2 }

/-- A fetch outside memory: `FetchOutOfBounds(ea = max(PC_insn, 0x1000))`, with 0 as the word (R110, R116). -/
def State.fetchFault (s : State) : State :=
  State.raise .fetchOutOfBounds (max s.pc.toNat 0x1000) { s with hid := { s.hid with ir := 0, pcInsn := s.pc } }

/-- Placing a word where the next step fetches it: at PC, or at 0x200 when PC is where no fetch is possible; the control FSM is
idle, and the `EXT_OPS` member the word belongs to, if any, is enabled (log entry 3). -/
def State.placeWord (w : Word) (s : State) : State :=
  let at_ : Word := if s.pc.toNat > 0x0FFE then 0x200 else s.pc
  let ext : ExtOps := match decodeWord ExtOps.all w with
    | .ok i => match i.member with
      | some m => s.cfg.extOps.enable m
      | none => s.cfg.extOps
    | .error _ => s.cfg.extOps
  State.writeBytes at_.toNat (bytesOfWord w)
    { s with pc := at_, cfg := { s.cfg with extOps := ext }, hid := { s.hid with ctl := .idle } }

end Sys2Proof.Machine
end

