-- ==== Sys2Proof/Machine/Operands.lean ====
section
/-! DEFINITION. Operand forms and results of the arithmetic and logic (spec/30_encoding.md R79, spec/42_register_arith.md R160,
R161). Sums and differences are over the naturals and then reduced. -/

namespace Sys2Proof.Machine

/-- `zext_16(nnn)` (R79). -/
def zextAddr (nnn : Addr) : Word := nnn.setWidth 16

/-- `(a + b) mod 256` (R168, R251). -/
def addResult (a b : Byte) : Byte := trunc8 (a.toNat + b.toNat)

/-- `(a - b) mod 256`, computed as `(a + 256 - b) mod 256` (R169). -/
def subResult (a b : Byte) : Byte := trunc8 (a.toNat + 256 - b.toNat)

/-- `a >> 1` (R171). -/
def shrResult (a : Byte) : Byte := a >>> 1

/-- `(a << 1) mod 256` (R172). -/
def shlResult (a : Byte) : Byte := trunc8 (a.toNat * 2)

/-- The three decimal digits of a byte: hundreds, tens, ones (R192). -/
def bcdDigits (b : Byte) : List Byte := [trunc8 (b.toNat / 100), trunc8 (b.toNat / 10 % 10), trunc8 (b.toNat % 10)]

/-- The key a register names: its low nibble (R254). -/
def keyIndex (b : Byte) : Nat := b.toNat % 16

/-- The lowest `k` with `keys[k] == 1`, when some key is held (R257). -/
def lowestKey (keys : BitVec 16) : Nat := ((List.range 16).find? fun k => keys.getLsbD k).getD 0

/-- The address of the glyph of a register's low nibble: `0x050 + 5 * (Vx AND 0xF)` (R259). -/
def glyphAddr (b : Byte) : Word := trunc16 (Config.fontBase + 5 * (b.toNat % 16))

end Sys2Proof.Machine
end

