-- ==== Sys2Proof/Machine/Flags.lean ====
section
/-! DEFINITION. The flag VF (spec/10_state.md R36): its value for each instruction that writes it as a flag, computed from the
operands read before any write (spec/42_register_arith.md R161), and the order of the writes (R162). -/

namespace Sys2Proof.Machine

/-- A flag as the byte VF receives. -/
def flagByte (c : Bool) : Byte := if c then 1 else 0

/-- Carry of ADD: the true sum exceeds 255 (R168). -/
def carryFlag (a b : Byte) : Byte := flagByte (decide (a.toNat + b.toNat > 255))

/-- No borrow of `a - b`: `a >= b` (R169, R170). -/
def noBorrowFlag (a b : Byte) : Byte := flagByte (decide (b.toNat ≤ a.toNat))

/-- Bit 0 before the shift (R171). -/
def shrFlag (a : Byte) : Byte := a &&& 0x01

/-- Bit 7 before the shift (R172). -/
def shlFlag (a : Byte) : Byte := a >>> 7

/-- The collision flag of DRW (R211). -/
def collisionFlag (coll : Bool) : Byte := flagByte coll

/-- The register index of VF (R22). -/
abbrev vf : Reg := 15

/-- `V[x] <- result; V[15] <- flag`: the result first and the flag last (R162). -/
def State.writeResultFlag (x : Reg) (result flag : Byte) (s : State) : State := (s.writeV x result).writeV vf flag

end Sys2Proof.Machine
end

