-- ==== Sys2Proof/Machine/Arith.lean ====
section
/-! DEFINITION. The register, arithmetic and logic instructions (spec/42_register_arith.md). Operands are read before any write
(R161); the flag is written last (R162). -/

namespace Sys2Proof.Machine

/-- LD Vx, byte (R163). -/
def execLdByte (x : Reg) (nn : Byte) (s : State) : Out := .next (s.writeV x nn).commitOk

/-- LD Vx, Vy (R164). -/
def execLdReg (x y : Reg) (s : State) : Out := .next (s.writeV x (s.readV y)).commitOk

/-- OR Vx, Vy (R165): no flag. -/
def execOr (x y : Reg) (s : State) : Out := .next (s.writeV x (s.readV x ||| s.readV y)).commitOk

/-- AND Vx, Vy (R166): no flag. -/
def execAnd (x y : Reg) (s : State) : Out := .next (s.writeV x (s.readV x &&& s.readV y)).commitOk

/-- XOR Vx, Vy (R167): no flag. -/
def execXor (x y : Reg) (s : State) : Out := .next (s.writeV x (s.readV x ^^^ s.readV y)).commitOk

/-- ADD Vx, Vy (R168). -/
def execAdd (x y : Reg) (s : State) : Out :=
  .next (s.writeResultFlag x (addResult (s.readV x) (s.readV y)) (carryFlag (s.readV x) (s.readV y))).commitOk

/-- SUB Vx, Vy (R169): `Vx - Vy`. -/
def execSub (x y : Reg) (s : State) : Out :=
  .next (s.writeResultFlag x (subResult (s.readV x) (s.readV y)) (noBorrowFlag (s.readV x) (s.readV y))).commitOk

/-- SUBN Vx, Vy (R170): `Vy - Vx`. -/
def execSubn (x y : Reg) (s : State) : Out :=
  .next (s.writeResultFlag x (subResult (s.readV y) (s.readV x)) (noBorrowFlag (s.readV y) (s.readV x))).commitOk

/-- SHR Vx (R171): Vy is neither read nor written. -/
def execShr (x : Reg) (s : State) : Out :=
  .next (s.writeResultFlag x (shrResult (s.readV x)) (shrFlag (s.readV x))).commitOk

/-- SHL Vx (R172): Vy is neither read nor written. -/
def execShl (x : Reg) (s : State) : Out :=
  .next (s.writeResultFlag x (shlResult (s.readV x)) (shlFlag (s.readV x))).commitOk

end Sys2Proof.Machine
end

