-- ==== Sys2Proof/Machine/ControlFlow.lean ====
section
/-! DEFINITION. The control-flow instructions (spec/41_control_flow.md). A meaning runs after the fetch: `PC = PC_insn + 2`. -/

namespace Sys2Proof.Machine

/-- JP addr (R140): `PC <- zext_16(nnn)`. -/
def execJp (nnn : Addr) (s : State) : Out := .next (s.setPc (zextAddr nnn)).commitOk

/-- CALL addr (R141): overflow at 16 entries; else push the return address and jump. -/
def execCall (nnn : Addr) (s : State) : Out :=
  if s.sp.val = Config.stackDepth then .next (s.raise .stackOverflow 0)
  else .next ((s.push s.pc).setPc (zextAddr nnn)).commitOk

/-- RET (R142): underflow on an empty stack; else pop into PC. -/
def execRet (s : State) : Out :=
  if s.sp.val = 0 then .next (s.raise .stackUnderflow 0)
  else .next (s.dropTop.setPc s.top).commitOk

/-- SE Vx, byte (R143). -/
def execSeByte (x : Reg) (nn : Byte) (s : State) : Out := .next (s.skipIf (s.readV x == nn)).commitOk

/-- SNE Vx, byte (R144). -/
def execSneByte (x : Reg) (nn : Byte) (s : State) : Out := .next (s.skipIf (s.readV x != nn)).commitOk

/-- SE Vx, Vy (R145). -/
def execSeReg (x y : Reg) (s : State) : Out := .next (s.skipIf (s.readV x == s.readV y)).commitOk

/-- SNE Vx, Vy (R146). -/
def execSneReg (x y : Reg) (s : State) : Out := .next (s.skipIf (s.readV x != s.readV y)).commitOk

end Sys2Proof.Machine
end

