-- ==== Sys2Proof/Machine/Display.lean ====
section
/-! DEFINITION. The display instructions (spec/44_display.md): CLS, and DRW in the cell-by-cell form of R211; the row form of R213
stands beside it and is what the FSM of R120 does. -/

namespace Sys2Proof.Machine

/-- All 2048 cells off. -/
def fbClear : Fb := Vector.replicate 32 0

/-- What DRW changes while it runs: the framebuffer and the collision flag. -/
structure Canvas where
  fb   : Fb
  coll : Bool
  deriving DecidableEq, Repr

/-- One set bit of a sprite at `(px, py)` (R211): clipped outside the grid, else the cell is flipped, and a cell that was on
sets the collision flag. -/
def plotCell (px py : Nat) (k : Canvas) : Canvas :=
  if px < Config.fbWidth ∧ py < Config.fbHeight then
    { fb := fbFlip k.fb (py * 64 + px), coll := k.coll || fbAt k.fb px py }
  else k

/-- One row of a sprite, most significant bit first (R211). -/
def plotRow (b : Byte) (x0 py : Nat) (k : Canvas) : Canvas :=
  (List.range 8).foldl (fun k col => if b.getLsbD (7 - col) then plotCell (x0 + col) py k else k) k

/-- The rows of a sprite, from row 0 down: row `r` is the byte `rows r` at line `y0 + r` (R211). -/
def plotSprite (rows : List Byte) (x0 y0 : Nat) (k : Canvas) : Canvas :=
  match rows with
  | [] => k
  | b :: bs => plotSprite bs x0 (y0 + 1) (plotRow b x0 y0 k)

/-- The `n` sprite bytes from `I` on, ascending (R53). -/
def State.spriteBytes (s : State) (n : Nat) : List Byte := (List.range n).map fun r => s.readByte (s.idx.toNat + r)

/-- The start column: `V[x] mod 64`, read once (R211). -/
def State.startX (s : State) (x : Reg) : Nat := (s.readV x).toNat % 64

/-- The start row: `V[y] mod 32`, read once (R211). -/
def State.startY (s : State) (y : Reg) : Nat := (s.readV y).toNat % 32

/-- DRW's guard: a window only when `n >= 1` (R55, R211). -/
def State.drawFault (s : State) (n : Fin 16) : Option Nat :=
  if n.val = 0 then none else s.windowFault 0 (n.val - 1)

/-- What a draw leaves: its framebuffer, and its collision flag in VF (R211). -/
def State.drawn (k : Canvas) (s : State) : State := (s.setFb k.fb).writeV vf (collisionFlag k.coll)

/-- CLS (R210). VF is unchanged. -/
def execCls (s : State) : Out := .next (s.setFb fbClear).commitOk

/-- DRW Vx, Vy, nibble (R211). The coordinates are read before VF is written; VF is always written. -/
def execDrw (x y : Reg) (n : Fin 16) (s : State) : Out :=
  match s.drawFault n with
  | some ea => .next (s.raise .memoryOutOfBounds ea)
  | none =>
    .next (s.drawn (plotSprite (s.spriteBytes n.val) (s.startX x) (s.startY y) { fb := s.fb, coll := false })).commitOk

/-! ## The row form (R213) -/

/-- The 64-bit mask of a sprite byte: `(zext_64(b) << 56) >> x0`, logical shifts. -/
def rowMask (b : Byte) (x0 : Nat) : BitVec 64 := (b.setWidth 64 <<< 56) >>> x0

/-- One sprite row composed into the framebuffer row it falls on. -/
def composeRow (b : Byte) (x0 py : Nat) (k : Canvas) : Canvas :=
  if py < Config.fbHeight then
    { fb := fbSetRow k.fb py (fbRow k.fb py ^^^ rowMask b x0), coll := k.coll || fbRow k.fb py &&& rowMask b x0 != 0 }
  else k

/-- The rows of a sprite, row by row. -/
def composeSprite (rows : List Byte) (x0 y0 : Nat) (k : Canvas) : Canvas :=
  match rows with
  | [] => k
  | b :: bs => composeSprite bs x0 (y0 + 1) (composeRow b x0 y0 k)

end Sys2Proof.Machine
end

