-- ==== Sys2Proof/Machine/MemoryIndex.lean ====
section
/-! DEFINITION. The memory and index instructions (spec/43_memory_index.md). Each checks its whole window before its first access
(R191). -/

namespace Sys2Proof.Machine

/-- LD I, addr (R190). -/
def execLdI (nnn : Addr) (s : State) : Out := .next (s.setIdx (zextAddr nnn)).commitOk

/-- LD B, Vx (R192): the decimal digits of Vx at I, I+1, I+2. -/
def execLdB (x : Reg) (s : State) : Out :=
  match s.windowFault 0 2 with
  | some ea => .next (s.raise .memoryOutOfBounds ea)
  | none => .next (s.writeBytes s.idx.toNat (bcdDigits (s.readV x))).commitOk

/-- LD [I], Vx (R193): V0..Vx to memory from I; I is unchanged (R196). -/
def execDump (x : Reg) (s : State) : Out :=
  match s.windowFault 0 x.val with
  | some ea => .next (s.raise .memoryOutOfBounds ea)
  | none => .next (s.writeBytes s.idx.toNat (s.regsUpTo x)).commitOk

/-- LD Vx, [I] (R194): V0..Vx from memory from I; I is unchanged (R196). -/
def execLoad (x : Reg) (s : State) : Out :=
  match s.windowFault 0 x.val with
  | some ea => .next (s.raise .memoryOutOfBounds ea)
  | none => .next (s.loadRegs x).commitOk

end Sys2Proof.Machine
end

