-- ==== Sys2Proof/Machine/Optional.lean ====
section
/-! DEFINITION. The `EXT_OPS` members (spec/46_optional_standard.md). The decoder gives them only where the configuration enables
them (R250). -/

namespace Sys2Proof.Machine

/-- ADD Vx, byte (R251): no carry into VF. -/
def execAddByte (x : Reg) (nn : Byte) (s : State) : Out := .next (s.writeV x (addResult (s.readV x) nn)).commitOk

/-- JP V0, addr (R252): `PC <- zext_16(nnn) + V[0]`. -/
def execJpV0 (nnn : Addr) (s : State) : Out :=
  .next (s.setPc (trunc16 (nnn.toNat + (s.readV 0).toNat))).commitOk

/-- RND Vx, byte (R253): the draw masked by the immediate. -/
def execRnd (x : Reg) (nn : Byte) (s : State) : Out := .next (s.takeRnd.writeV x (s.rndSample &&& nn)).commitOk

/-- SKP Vx (R254): skip if the key is held; `keys` is sampled once. -/
def execSkp (x : Reg) (s : State) : Out :=
  .next (s.takeKeys.skipIf (s.keysSample.getLsbD (keyIndex (s.readV x)))).commitOk

/-- SKNP Vx (R255): skip if the key is not held. -/
def execSknp (x : Reg) (s : State) : Out :=
  .next (s.takeKeys.skipIf (!s.keysSample.getLsbD (keyIndex (s.readV x)))).commitOk

/-- LD Vx, DT (R256). -/
def execLdVxDT (x : Reg) (s : State) : Out := .next (s.writeV x s.dt).commitOk

/-- LD Vx, K (R257): with no key held PC goes back to `PC_insn` and the step succeeds; else the lowest held key goes to Vx. -/
def execLdVxK (x : Reg) (s : State) : Out :=
  .next ((s.takeKeys.setPc (if s.keysSample = 0 then s.hid.pcInsn else s.pc)).writeV x
    (if s.keysSample = 0 then s.readV x else trunc8 (lowestKey s.keysSample))).commitOk

/-- ADD I, Vx (R258): mod 65536, VF not written. -/
def execAddI (x : Reg) (s : State) : Out := .next (s.setIdx (trunc16 (s.idx.toNat + (s.readV x).toNat))).commitOk

/-- LD F, Vx (R259). -/
def execLdF (x : Reg) (s : State) : Out := .next (s.setIdx (glyphAddr (s.readV x))).commitOk

end Sys2Proof.Machine
end

