-- ==== Sys2Proof/Machine/Timers.lean ====
section
/-! DEFINITION. The timer instructions (spec/45_timers.md R230, R231). The tick is a host operation (Machine/HostOps.lean). -/

namespace Sys2Proof.Machine

/-- LD DT, Vx (R230). -/
def execLdDT (x : Reg) (s : State) : Out := .next (s.setDT (s.readV x)).commitOk

/-- LD ST, Vx (R231). -/
def execLdST (x : Reg) (s : State) : Out := .next (s.setST (s.readV x)).commitOk

end Sys2Proof.Machine
end

