-- ==== Sys2Proof/Machine/Dispatch.lean ====
section
/-! DEFINITION. The dispatcher: one arm per instruction (spec/40_step_cycle.md R112). -/

namespace Sys2Proof.Machine

def exec (i : Instr) (s : State) : Host.Outcome State Fault Refusal :=
  match i with
  | .cls => Sys2Proof.Machine.execCls s
  | .ret => Sys2Proof.Machine.execRet s
  | .jp nnn => Sys2Proof.Machine.execJp nnn s
  | .call nnn => Sys2Proof.Machine.execCall nnn s
  | .seByte x nn => Sys2Proof.Machine.execSeByte x nn s
  | .sneByte x nn => Sys2Proof.Machine.execSneByte x nn s
  | .seReg x y => Sys2Proof.Machine.execSeReg x y s
  | .ldByte x nn => Sys2Proof.Machine.execLdByte x nn s
  | .ldReg x y => Sys2Proof.Machine.execLdReg x y s
  | .orReg x y => Sys2Proof.Machine.execOr x y s
  | .andReg x y => Sys2Proof.Machine.execAnd x y s
  | .xorReg x y => Sys2Proof.Machine.execXor x y s
  | .addReg x y => Sys2Proof.Machine.execAdd x y s
  | .subReg x y => Sys2Proof.Machine.execSub x y s
  | .shr x => Sys2Proof.Machine.execShr x s
  | .subn x y => Sys2Proof.Machine.execSubn x y s
  | .shl x => Sys2Proof.Machine.execShl x s
  | .sneReg x y => Sys2Proof.Machine.execSneReg x y s
  | .ldI nnn => Sys2Proof.Machine.execLdI nnn s
  | .drw x y n => Sys2Proof.Machine.execDrw x y n s
  | .ldDT x => Sys2Proof.Machine.execLdDT x s
  | .ldST x => Sys2Proof.Machine.execLdST x s
  | .ldB x => Sys2Proof.Machine.execLdB x s
  | .dump x => Sys2Proof.Machine.execDump x s
  | .load x => Sys2Proof.Machine.execLoad x s
  | .addByte x nn => Sys2Proof.Machine.execAddByte x nn s
  | .jpV0 nnn => Sys2Proof.Machine.execJpV0 nnn s
  | .rnd x nn => Sys2Proof.Machine.execRnd x nn s
  | .skp x => Sys2Proof.Machine.execSkp x s
  | .sknp x => Sys2Proof.Machine.execSknp x s
  | .ldVxDT x => Sys2Proof.Machine.execLdVxDT x s
  | .ldVxK x => Sys2Proof.Machine.execLdVxK x s
  | .addI x => Sys2Proof.Machine.execAddI x s
  | .ldF x => Sys2Proof.Machine.execLdF x s

end Sys2Proof.Machine
end

