-- ==== Sys2Proof/Machine/Step.lean ====
section
/-! DEFINITION. The host operation Step as one atomic transaction (spec/40_step_cycle.md R110 to R118), and placing an
instruction where the next step fetches it. -/

namespace Sys2Proof.Machine

/-- One Step (R118): ignored while busy (R102); fetch, decode, execute; a condition is reported and the core goes on. -/
def step (s : State) : Host.Outcome State Fault Refusal :=
  if s.busy then .next s
  else
    match s.fetchWord with
    | none => .next s.fetchFault
    | some w =>
      match decodeWord s.cfg.extOps w with
      | .error _ => .next (s.latch w).unrecognized
      | .ok i => exec i (s.latch w)

/-- The state with the instruction word `w` stored where the next step fetches it. -/
def State.withFetchWord (s : State) (nbits w : Nat) : State := s.placeWord (BitVec.ofNat 16 (w % 2 ^ nbits))

end Sys2Proof.Machine
end

