-- ==== Sys2Proof/Machine/HostOps.lean ====
section
/-! DEFINITION. The host operations beside Step (spec/40_step_cycle.md R100): Reset, Load, Tick, FbRead and View, the supply of
input samples, and how a Tick meets a concurrent Step. -/

namespace Sys2Proof.Machine

/-- `Reset` (R331): every piece of state to its value of R34. The parameters and the host's own samples are not the core's
state, so they stay (log entry 12). A reset during a step or load abandons it. -/
def State.hostReset (s : State) : State := { State.resetWith s.cfg with env := s.env }

/-- `Load(bytes)` (R332): ignored while busy (R102); `RomTooLarge` above 3584 bytes, with no other state changed; else the full
reset, the image copied to 0x200, and `STATUS` Ok. -/
def State.load (bytes : List Byte) (s : State) : State :=
  if s.busy then s
  else if bytes.length > Config.maxRom then State.report { code := .romTooLarge, word := 0, pc := 0, ea := 0 } s
  else s.hostReset.writeBytes Config.progBase bytes

/-- `Tick` (R232): each counter that is not zero is decremented by one. -/
def State.tick (s : State) : State := { s with dt := tickCounter s.dt, st := tickCounter s.st }

/-- The host supplies the next sample of `keys` (R260). -/
def State.supplyKeys (keys : BitVec 16) (s : State) : State := { s with env := { s.env with keys := s.env.keys ++ [keys] } }

/-- The host supplies the next sample of `rnd` (R261). -/
def State.supplyRnd (r : Byte) (s : State) : State := { s with env := { s.env with rnd := s.env.rnd ++ [r] } }

/-- The host operations that change state (R100), and the supply of samples. FbRead and View only read. -/
inductive HostOp where
  | reset
  | load (bytes : List Byte)
  | step
  | tick
  | supplyKeys (keys : BitVec 16)
  | supplyRnd (r : Byte)
  deriving DecidableEq, Repr

/-- One host operation. Ticks stand between any two steps, in any number (R106). -/
def hostOp (op : HostOp) (s : State) : Out :=
  match op with
  | .reset => .next s.hostReset
  | .load bytes => .next (s.load bytes)
  | .step => step s
  | .tick => .next s.tick
  | .supplyKeys k => .next (s.supplyKeys k)
  | .supplyRnd r => .next (s.supplyRnd r)

/-- A sequence of host operations, stopping at the first fault or refusal. -/
def hostRun : List HostOp → State → Out
  | [], s => .next s
  | op :: ops, s =>
    match hostOp op s with
    | .next t => hostRun ops t
    | .fault r => .fault r
    | .refused r => .refused r

/-- A Tick that arrives while a Step runs is serialized either before or after it, unspecified which (R106, R302). -/
def StepWithTick (s t : State) : Prop := step s.tick = .next t ∨ ∃ u, step s = .next u ∧ t = u.tick

/-! ## Reading -/

/-- `FbRead(c)` while not busy: the committed cell (R103). -/
def State.fbRead (s : State) (c : Fin 2048) : Bool := fbCell s.fb c.val

/-- A framebuffer read made while a Step takes the core from `before` to `after`: the old or the new value of the cell,
unspecified which; a cell the step does not change shows its one value (R103). `n` numbers the free choice (log entry 11). -/
def fbReadDuring (before after : State) (c : Fin 2048) (n : Nat) : Bool :=
  if Config.busyCellIsNew n then after.fbRead c else before.fbRead c

/-- A framebuffer read made while a Load runs from `before`: no DRW or CLS is running, so every cell shows its committed value,
that of the last completed operation (R103). -/
def fbReadDuringLoad (before : State) (c : Fin 2048) : Bool := before.fbRead c

/-- The `View` ports at memory address `maddr` (R105). `n` numbers the free value shown while busy. -/
def State.view (s : State) (maddr : Addr) (n : Nat) : View :=
  if s.busy then Config.busyView n
  else { v := s.v, idx := s.idx, pc := s.pc, sp := s.sp, stk := s.stk, dt := s.dt, st := s.st, mdata := s.readByte maddr.toNat }

/-- `sound_on` is `ST != 0` at all times (R104). -/
def State.soundOn (s : State) : Bool := s.st != 0

end Sys2Proof.Machine
end

