-- ==== Sys2Proof/Machine/Fsm.lean ====
section
/-! DEFINITION. The control FSM of spec/40_step_cycle.md R120, cycle by cycle, over the same State: one implementation of the
atomic step, with the ports of R101, the load protocol of spec/70_reset_and_hazards.md R333 and the cycle counts of R345. No
meaning depends on it (R120, R122). -/

namespace Sys2Proof.Machine

/-- The input ports of R101 in one clock cycle. `keys` and `rnd` are sampled from the host's samples (State.env). -/
structure Pins where
  rst       : Bool := false
  stepReq   : Bool := false
  loadReq   : Bool := false
  loadLen   : BitVec 32 := 0
  loadValid : Bool := false
  loadByte  : Byte := 0
  tick      : Bool := false
  deriving DecidableEq, Repr

/-- A cycle in which the host does nothing. -/
def Pins.quiet : Pins := {}

/-- The output ports of R101, but for the framebuffer read (State.fbPort) and the view (State.view). -/
structure Outs where
  busy       : Bool
  done       : Bool
  statusCode : BitVec 3
  statusWord : Word
  statusPc   : Word
  statusEa   : BitVec 17
  soundOn    : Bool
  deriving DecidableEq, Repr

/-- The outputs in a cycle: `busy` in every control state but IDLE, `done` in DONE (R120). -/
def State.outs (s : State) : Outs :=
  { busy := s.busy, done := s.hid.ctl == .done, statusCode := s.status.code.bits, statusWord := s.status.word,
    statusPc := s.status.pc, statusEa := s.status.ea, soundOn := s.soundOn }

/-- The control state moves on. -/
def State.goto (c : Ctl) (s : State) : State := { s with hid := { s.hid with ctl := c } }

/-- A guard has failed: the record waits for ERR. -/
def State.fail (r : Status) (s : State) : State := { s with hid := { s.hid with pending := r, ctl := .err } }

/-- The one guard of an instruction, evaluated in DECODE before the first write (R120, R301): the condition and its `ea`. -/
def guardOf (i : Instr) (s : State) : Option (Code × Nat) :=
  match i with
  | .call _ => if s.sp.val = Config.stackDepth then some (.stackOverflow, 0) else none
  | .ret => if s.sp.val = 0 then some (.stackUnderflow, 0) else none
  | .ldB _ => (s.windowFault 0 2).map fun ea => (.memoryOutOfBounds, ea)
  | .dump x | .load x => (s.windowFault 0 x.val).map fun ea => (.memoryOutOfBounds, ea)
  | .drw _ _ n => (s.drawFault n).map fun ea => (.memoryOutOfBounds, ea)
  | .cls | .jp _ | .seByte _ _ | .sneByte _ _ | .seReg _ _ | .ldByte _ _ | .ldReg _ _ | .orReg _ _ | .andReg _ _
  | .xorReg _ _ | .addReg _ _ | .subReg _ _ | .shr _ | .subn _ _ | .shl _ | .sneReg _ _ | .ldI _ | .ldDT _ | .ldST _
  | .addByte _ _ | .jpV0 _ | .rnd _ _ | .skp _ | .sknp _ | .ldVxDT _ | .ldVxK _ | .addI _ | .ldF _ => none

/-- The first execute state of an instruction (R120). DRW with `n = 0` has none: R345 gives it 6 cycles, the fetch, DECODE,
COMMIT and DONE. DEDUCED (log entry 10): that, and that the `EXT_OPS` members run in EX_1. -/
def firstEx : Instr → Ctl
  | .cls => .exCls
  | .drw _ _ n => if n.val = 0 then .commit else .exDrw
  | .ldB _ | .dump _ | .load _ => .exMem
  | .call _ | .ret | .jp _ | .seByte _ _ | .sneByte _ _ | .seReg _ _ | .ldByte _ _ | .ldReg _ _ | .orReg _ _ | .andReg _ _
  | .xorReg _ _ | .addReg _ _ | .subReg _ _ | .shr _ | .subn _ _ | .shl _ | .sneReg _ _ | .ldI _ | .ldDT _ | .ldST _
  | .addByte _ _ | .jpV0 _ | .rnd _ _ | .skp _ | .sknp _ | .ldVxDT _ | .ldVxK _ | .addI _ | .ldF _ => .ex1

/-- The instruction in IR. -/
def State.current (s : State) : Except DecodeReject Instr := decodeWord s.cfg.extOps s.hid.ir

/-- IDLE: `load_req` before `step_req` (R101, R302). A load keeps the committed framebuffer for the read port (R103). -/
def fsmIdle (p : Pins) (s : State) : State :=
  if p.loadReq then { s with hid := { s.hid with loadLen := p.loadLen, fbHeld := s.fb, ctl := .ldCheck } }
  else if p.stepReq then { s with hid := { s.hid with pcInsn := s.pc, ctl := .fCheck } }
  else s

/-- F_CHECK: the fetch bound, else the read of the high byte. -/
def fsmFCheck (s : State) : State :=
  if s.hid.pcInsn.toNat > 0x0FFE then
    s.fail { code := .fetchOutOfBounds, word := 0, pc := s.hid.pcInsn, ea := BitVec.ofNat 17 (max s.hid.pcInsn.toNat 0x1000) }
  else { s with hid := { s.hid with ramByte := s.readByte s.hid.pcInsn.toNat, ctl := .fHi } }

/-- F_HI: latch the high byte; read the low byte. -/
def fsmFHi (s : State) : State :=
  { s with hid := { s.hid with
      ir := wordOfBytes s.hid.ramByte (lowByte s.hid.ir)
      ramByte := s.readByte (s.hid.pcInsn.toNat + 1)
      ctl := .fLo } }

/-- F_LO: latch the low byte. -/
def fsmFLo (s : State) : State :=
  { s with hid := { s.hid with ir := wordOfBytes (highByte s.hid.ir) s.hid.ramByte, ctl := .decode } }

/-- DECODE: decode, evaluate the guard, write nothing of R20. The counters start at 0. -/
def fsmDecode (s : State) : State :=
  match s.current with
  | .error _ => s.goto .unrec
  | .ok i =>
    match guardOf i s with
    | some (c, ea) => s.fail { code := c, word := s.hid.ir, pc := s.hid.pcInsn, ea := BitVec.ofNat 17 ea }
    | none =>
      { s with hid := { s.hid with
          pcNext := s.hid.pcInsn + 2, row := 0, col := 0, coll := false, phase := 0, k := 0, ctl := firstEx i } }

/-- EX_1: a single-cycle handler writes registers, stack and timers and computes `PC_next`; PC and STATUS wait for COMMIT. -/
def fsmEx1 (s : State) : State :=
  match s.current with
  | .error _ => s
  | .ok i =>
    match exec i { s with pc := s.hid.pcInsn + 2 } with
    | .next t =>
      { t with pc := s.pc, status := s.status, log := s.log, hid := { s.hid with pcNext := t.pc, ctl := .commit } }
    | .fault _ => s
    | .refused _ => s

/-- The counter `k` moves on, to COMMIT when the transfer is complete. -/
def State.nextByte (last : Bool) (s : State) : State :=
  { s with hid := { s.hid with k := s.hid.k + 1, ctl := if last then .commit else .exMem } }

/-- One cycle of FX65: the byte read in the cycle before goes to its register, and the next one is read. -/
def fsmLoadByte (x : Reg) (s : State) : State :=
  let s1 := if s.hid.k = 0 then s else s.writeV (Fin.ofNat 16 (s.hid.k - 1)) s.hid.ramByte
  State.nextByte (decide (s.hid.k = x.val + 1))
    { s1 with hid := { s.hid with ramByte := if s.hid.k ≤ x.val then s.readByte (s.idx.toNat + s.hid.k) else s.hid.ramByte } }

/-- EX_MEM: FX33, FX55 and FX65, one byte per cycle at ascending addresses. -/
def fsmExMem (s : State) : State :=
  match s.current with
  | .ok (.ldB x) =>
    (s.writeBytes (s.idx.toNat + s.hid.k) [(bcdDigits (s.readV x)).getD s.hid.k 0]).nextByte (decide (s.hid.k = 2))
  | .ok (.dump x) =>
    (s.writeBytes (s.idx.toNat + s.hid.k) [s.readV (Fin.ofNat 16 s.hid.k)]).nextByte (decide (s.hid.k = x.val))
  | .ok (.load x) => fsmLoadByte x s
  | _ => s

/-- EX_CLS: one framebuffer row per cycle, rows 0 to 31. -/
def fsmExCls (s : State) : State :=
  { s with
    fb := fbSetRow s.fb s.hid.row 0
    hid := { s.hid with row := s.hid.row + 1, ctl := if s.hid.row = 31 then .commit else .exCls } }

/-- The row form's write of one sprite row, from the two RAM outputs (R213). The write of the last row is followed by that of VF,
and COMMIT comes next (R120: "write the row; then VF"). -/
def fsmCompose (x0 py : Nat) (n : Nat) (s : State) : State :=
  let inside := decide (py < Config.fbHeight)
  let mask := rowMask s.hid.sprite x0
  let coll := s.hid.coll || (inside && s.hid.ramRow &&& mask != 0)
  let s1 : State := { s with
    fb := if inside then fbSetRow s.fb py (s.hid.ramRow ^^^ mask) else s.fb
    hid := { s.hid with coll := coll, row := s.hid.row + 1, phase := 0 } }
  if s.hid.row + 1 = n then (s1.writeV vf (collisionFlag coll)).goto .commit else s1.goto .exDrw

/-- EX_DRW: three cycles a sprite row: read the sprite byte, read the framebuffer row, compose and write. -/
def fsmExDrw (s : State) : State :=
  match s.current with
  | .ok (.drw x y n) =>
    if s.hid.phase = 0 then
      { s with hid := { s.hid with ramByte := s.readByte (s.idx.toNat + s.hid.row), phase := 1 } }
    else if s.hid.phase = 1 then
      { s with hid := { s.hid with sprite := s.hid.ramByte, ramRow := fbRow s.fb (s.startY y + s.hid.row), phase := 2 } }
    else fsmCompose (s.startX x) (s.startY y + s.hid.row) n.val s
  | _ => s

/-- COMMIT: `PC <- PC_next`, `STATUS <- Ok`. DEDUCED (log entry 10): a draw of no rows, which has no EX_DRW cycle, writes its
VF = 0 here. -/
def fsmCommit (s : State) : State :=
  let s1 := match s.current with
    | .ok (.drw _ _ n) => if n.val = 0 then s.writeV vf (collisionFlag false) else s
    | _ => s
  (State.commitOk { s1 with pc := s.hid.pcNext }).goto .done

/-- UNREC: PC advances, the word is reported (R115). -/
def fsmUnrec (s : State) : State := (State.unrecognized { s with pc := s.hid.pcInsn + 2 }).goto .done

/-- ERR: the condition is reported; PC and all other state unchanged (R116, R332). -/
def fsmErr (s : State) : State := (s.report s.hid.pending).goto .done

/-- LD_CHECK: the length against 3584; too large consumes no bytes (R333). -/
def fsmLdCheck (s : State) : State :=
  if s.hid.loadLen.toNat > Config.maxRom then s.fail { code := .romTooLarge, word := 0, pc := 0, ea := 0 }
  else { s with hid := { s.hid with k := 0, ctl := .ldClear } }

/-- A load ends: `STATUS = Ok` with all fields 0 (R332). -/
def State.loadDone (s : State) : State := State.goto .done { s with status := Status.clear }

/-- LD_CLEAR: the reset values of R34 but for STATUS, one memory cell and one framebuffer row per cycle, 4096 cycles (R333,
R345). -/
def fsmLdClear (s : State) : State :=
  let r := State.resetWith s.cfg
  let s1 : State := { r with
    fb := fbSetRow s.fb s.hid.k 0
    mem := Memory.write s.cfg.font s.mem s.hid.k (unlistedByte s.cfg.font s.hid.k)
    status := s.status
    hid := s.hid
    env := s.env }
  if s.hid.k + 1 = Config.memSize then
    if s.hid.loadLen = 0 then s1.loadDone else { s1 with hid := { s.hid with k := 0, ctl := .ldCopy } }
  else { s1 with hid := { s.hid with k := s.hid.k + 1 } }

/-- LD_COPY: exactly `load_len` bytes, one per cycle with `load_valid = 1`; the core stays busy until they have come (R333). -/
def fsmLdCopy (p : Pins) (s : State) : State :=
  if p.loadValid then
    let s1 := s.writeBytes (Config.progBase + s.hid.k) [p.loadByte]
    if s.hid.k + 1 = s.hid.loadLen.toNat then s1.loadDone
    else { s1 with hid := { s.hid with k := s.hid.k + 1 } }
  else s

/-- The transition of the control state (R120). -/
def fsmNext (p : Pins) (s : State) : State :=
  match s.hid.ctl with
  | .idle => fsmIdle p s
  | .fCheck => fsmFCheck s
  | .fHi => fsmFHi s
  | .fLo => fsmFLo s
  | .decode => fsmDecode s
  | .ex1 => fsmEx1 s
  | .exMem => fsmExMem s
  | .exCls => fsmExCls s
  | .exDrw => fsmExDrw s
  | .unrec => fsmUnrec s
  | .commit => fsmCommit s
  | .err => fsmErr s
  | .done => s.goto .idle
  | .ldCheck => fsmLdCheck s
  | .ldClear => fsmLdClear s
  | .ldCopy => fsmLdCopy p s

/-- Whether the step writes DT in this cycle. -/
def State.writesDT (s : State) : Bool :=
  s.hid.ctl == .ex1 && (match s.current with
    | .ok (.ldDT _) => true
    | _ => false)

/-- Whether the step writes ST in this cycle. -/
def State.writesST (s : State) : Bool :=
  s.hid.ctl == .ex1 && (match s.current with
    | .ok (.ldST _) => true
    | _ => false)

/-- One clock cycle. `rst` wins over every request (R302). A tick decrements in the cycle it arrives, dropped for a counter the
step writes in that cycle (R106). -/
def cycle (p : Pins) (s : State) : State :=
  if p.rst then s.hostReset
  else
    let t := fsmNext p s
    if p.tick then
      { t with dt := if s.writesDT then t.dt else tickCounter t.dt, st := if s.writesST then t.st else tickCounter t.st }
    else t

/-- The clock cycles of a list of pin values. -/
def runCycles (ps : List Pins) (s : State) : State := ps.foldl (fun s p => cycle p s) s

/-- The cycle of a step request. -/
def requestStep (s : State) : State := cycle { stepReq := true } s

/-- The cycle of a load request. -/
def requestLoad (len : BitVec 32) (s : State) : State := cycle { loadReq := true, loadLen := len } s

/-- Whether a load is running: its FSM states before ERR and DONE (R333). -/
def State.loading (s : State) : Bool := s.hid.ctl == .ldCheck || s.hid.ctl == .ldClear || s.hid.ctl == .ldCopy

/-- `fb_data` for `fb_addr = c`, combinationally, in any cycle (R103): the cell of the framebuffer, which while a draw or clear
runs is the old or the new one; while a load runs, the committed cell. -/
def State.fbPort (s : State) (c : Fin 2048) : Bool := fbCell (if s.loading then s.hid.fbHeld else s.fb) c.val

/-- A cycle that carries one load byte. -/
def Pins.byte (b : Byte) : Pins := { loadValid := true, loadByte := b }

/-- The cycles of a successful instruction, the `done` pulse included (R345). -/
def instrCycles : Instr → Nat
  | .ldB _ => 9
  | .dump x => 7 + x.val
  | .load x => 8 + x.val
  | .cls => 38
  | .drw _ _ n => 6 + 3 * n.val
  | .call _ | .ret | .jp _ | .seByte _ _ | .sneByte _ _ | .seReg _ _ | .ldByte _ _ | .ldReg _ _ | .orReg _ _ | .andReg _ _
  | .xorReg _ _ | .addReg _ _ | .subReg _ _ | .shr _ | .subn _ _ | .shl _ | .sneReg _ _ | .ldI _ | .ldDT _ | .ldST _
  | .addByte _ _ | .jpV0 _ | .rnd _ _ | .skp _ | .sknp _ | .ldVxDT _ | .ldVxK _ | .addI _ | .ldF _ => 7

/-- The cycles of the step a state takes, from the first cycle after the request to the `done` pulse inclusive (R345). -/
def State.stepCycles (s : State) : Nat :=
  match s.fetchWord with
  | none => 3
  | some w =>
    match decodeWord s.cfg.extOps w with
    | .error _ => 6
    | .ok i => if (guardOf i s).isSome then 6 else instrCycles i

/-- The cycles of an accepted load of `len` bytes that come one per cycle (R345). -/
def loadCycles (len : Nat) : Nat := 1 + 4096 + len + 1

/-- The state without the FSM's own registers: what R20 lists, the log, the parameters and the samples. -/
def State.arch (s : State) : State := { s with hid := Hidden.reset }

end Sys2Proof.Machine
end

