-- ==== Sys2Proof/Safety.lean ====
section
/-! DEFINITION. What claims call a safe run, and the invariants of the core. A claim about a program takes "no condition reported"
as a premise (spec/40_step_cycle.md R119). -/

namespace Sys2Proof.Machine

/-- No condition has been reported since reset or load (R119). -/
def State.quiet (s : State) : Prop := s.log = []

/-- The memory is in its canonical form. -/
def State.MemOk (s : State) : Prop := Memory.wf s.cfg.font s.mem = true

/-- `I <= 0x0FFF` unless ADD_I is enabled (R24, R258). -/
def State.IndexOk (s : State) : Prop := s.cfg.extOps.addI = false → s.idx.toNat ≤ 0x0FFF

/-- PC never wraps: it is at most 0x1002, or 0x10FE where JP_V0 is enabled, and a return address is at most 0x1000 (R26,
R252). -/
def State.PcOk (s : State) : Prop :=
  (s.cfg.extOps.jpV0 = false → s.pc.toNat ≤ 0x1002) ∧ s.pc.toNat ≤ 0x10FE ∧ ∀ k : Fin 16, (s.stk.get k).toNat ≤ 0x1000

/-- The last report is the newest entry of the log, unless the last operation completed with Ok (R31, R119). -/
def State.LogOk (s : State) : Prop := s.status.code ≠ .ok → s.log.head? = some s.status

/-- The invariant every host operation keeps. -/
def State.Inv (s : State) : Prop := s.MemOk ∧ s.IndexOk ∧ s.PcOk ∧ s.LogOk

/-- A run of `k` steps from `s` to `t` in which no condition is reported. -/
def SafeRun (k : Nat) (s t : State) : Prop := Sys2Proof.core.run k s = .next t ∧ t.log = s.log

/-! ## Frames

What an instruction may change is named; everything else is as before. -/

/-- The parts of the state an operation may change, beside STATUS. -/
structure Touches where
  regs  : Bool := false
  idx   : Bool := false
  pc    : Bool := false
  stack : Bool := false
  dt    : Bool := false
  st    : Bool := false
  fb    : Bool := false
  mem   : Bool := false
  log   : Bool := false
  env   : Bool := false
  deriving DecidableEq, Repr

/-- Everything but STATUS and the parts named in `w` is the same in `t` as in `s`: every general register, I, PC, the stack,
both timers, every framebuffer cell, every byte of memory, the log, the input samples, the parameters and the FSM's registers. -/
def Keeps (w : Touches) (s t : State) : Prop :=
  t.cfg = s.cfg ∧ t.hid = s.hid ∧
  (w.regs = false → ∀ r, t.readV r = s.readV r) ∧
  (w.idx = false → t.idx = s.idx) ∧
  (w.pc = false → t.pc = s.pc) ∧
  (w.stack = false → t.sp = s.sp ∧ ∀ k : Fin 16, t.stk.get k = s.stk.get k) ∧
  (w.dt = false → t.dt = s.dt) ∧
  (w.st = false → t.st = s.st) ∧
  (w.fb = false → ∀ c : Fin 2048, t.fbRead c = s.fbRead c) ∧
  (w.mem = false → ∀ a, t.readByte a = s.readByte a) ∧
  (w.log = false → t.log = s.log) ∧
  (w.env = false → t.env = s.env)

/-- `{Ok, w, PC_insn, 0}`, the status of a step that raises nothing (R113). -/
def okStatus (s : State) : Status := { code := .ok, word := s.hid.ir, pc := s.hid.pcInsn, ea := 0 }

/-- The instruction runs to its successful commit in `t` (R113). -/
def Completes (i : Instr) (s t : State) : Prop := exec i s = .next t ∧ t.status = okStatus s

/-- The instruction ends in the error commit of R116: the condition is reported, PC is `PC_insn`, all else is as before. -/
def Raises (i : Instr) (s : State) (c : Code) (ea : Nat) : Prop :=
  ∃ t, exec i s = .next t ∧
    t.status = { code := c, word := s.hid.ir, pc := s.hid.pcInsn, ea := BitVec.ofNat 17 ea } ∧
    t.pc = s.hid.pcInsn ∧ t.log = t.status :: s.log ∧ Keeps { pc := true, log := true } s t

/-- Every word of a row decodes, in every configuration of `ok`, to the instruction `i` makes of its fields. -/
def RowDecodes (mask mat : Word) (ok : ExtOps → Bool) (i : Word → Instr) : Prop :=
  ∀ e w, ok e = true → w &&& mask = mat → decodeWord e w = .ok (i w)

/-- Whether the sprite of `DRW Vx, Vy, n` covers the cell `(px, py)` with a set bit (R211). -/
def spriteCovers (s : State) (x y : Reg) (n px py : Nat) : Bool :=
  let x0 := (s.readV x).toNat % 64
  let y0 := (s.readV y).toNat % 32
  decide (x0 ≤ px ∧ px < x0 + 8 ∧ y0 ≤ py ∧ py < y0 + n) && (s.readByte (s.idx.toNat + (py - y0))).getLsbD (7 - (px - x0))

/-- The instruction the next step of `s` executes, if it executes one. -/
def State.nextInstr (s : State) : Option Instr :=
  match s.fetchWord with
  | none => none
  | some w =>
    match decodeWord s.cfg.extOps w with
    | .ok i => some i
    | .error _ => none

end Sys2Proof.Machine
end

