-- ==== Sys2Proof/Certificates/Slice0/Obligations.lean ====
section
/-! DEFINITION. The statements for the provers. A handler runs after the fetch: `s.pc` is `PC_insn + 2`, `s.hid.ir` the latched
word and `s.hid.pcInsn` the address it was fetched from (spec/40_step_cycle.md R110, R112). -/

open Sys2Proof Sys2Proof.Machine

/-! ## Encoding (spec/30_encoding.md) -/

/-- Words written out from R75, R81 and the test vectors of spec/95_test_vectors.md decode to what they stand for. -/
def Obligations.SpecWordsDecode : Prop :=
  decodeWord ExtOps.none 0x00E0 = .ok .cls ∧ decodeWord ExtOps.none 0x0120 = .ok .cls ∧
  decodeWord ExtOps.none 0x0FFE = .ok .ret ∧ decodeWord ExtOps.none 0x2300 = .ok (.call 0x300) ∧
  decodeWord ExtOps.none 0x3342 = .ok (.seByte 3 0x42) ∧ decodeWord ExtOps.none 0x5127 = .ok (.seReg 1 2) ∧
  decodeWord ExtOps.none 0x8016 = .ok (.shr 0) ∧ decodeWord ExtOps.none 0x80F4 = .ok (.addReg 0 15) ∧
  decodeWord ExtOps.none 0xDF11 = .ok (.drw 15 1 1) ∧ decodeWord ExtOps.none 0xF265 = .ok (.load 2) ∧
  decodeWord ExtOps.all 0xF20A = .ok (.ldVxK 2) ∧ decodeWord ExtOps.none 0x7001 = .error (.unknownTopNibble 0x7001)

/-- Decoding an encoded well-formed instruction gives it back, with every operand at every value, and leaves the bytes after
it (R70, R79, R81). -/
def Obligations.DecodeOfEncode : Prop :=
  ∀ (e : ExtOps) (i : Instr) (rest : List Byte), i.wellFormed e = true →
    decode e (bytesOfWord (encode i) ++ rest) = .ok (i, rest)

/-- A word that decodes lies in the row of its instruction, and the instruction is one the configuration has (R75, R78). -/
def Obligations.DecodedWordMatchesItsRow : Prop :=
  ∀ (e : ExtOps) (w : Word) (i : Instr), decodeWord e w = .ok i → w &&& i.matchMask.2 = i.matchMask.1 ∧ i.wellFormed e = true

/-- A word is an instruction exactly when some row of the configuration covers it; every other word is unrecognized
(R76, R78, R80). -/
def Obligations.WordDecodesIffARowCoversIt : Prop :=
  ∀ (e : ExtOps) (w : Word), (∃ i, decodeWord e w = .ok i) ↔ ∃ r ∈ rowsOf e, r.covers w = true

/-- "The rows do not overlap, so every word matches at most one row" (R75, the spec's inference), the rows of R250 included. -/
def Obligations.RowsDoNotOverlap : Prop :=
  ∀ (i j : Nat) (r q : OpRow) (w : Word), (rowsOf ExtOps.all)[i]? = some r → (rowsOf ExtOps.all)[j]? = some q →
    r.covers w = true → q.covers w = true → i = j

/-- In the default configuration 39760 of the 65536 words are instructions and 25776 are unrecognized (R75, R76). -/
def Obligations.RecognizedWordCount : Prop :=
  ((List.range 65536).countP fun w => (decodeWord ExtOps.none (BitVec.ofNat 16 w)).isOk) = 39760 ∧
  ((List.range 65536).countP fun w => !(decodeWord ExtOps.none (BitVec.ofNat 16 w)).isOk) = 25776

/-- Two words that differ only in ignored bits decode alike: bits 11:4 of family 0x0, bits 3:0 of families 0x5 and 0x9, and
the `y` field of SHR and SHL (R77). -/
def Obligations.IgnoredBitsDoNotMatter : Prop :=
  ∀ (e : ExtOps) (w w' : Word) (i : Instr), decodeWord e w = .ok i → fieldT w' = fieldT w →
    ((fieldT w = 0x0 ∧ fieldN w' = fieldN w) ∨
     ((fieldT w = 0x5 ∨ fieldT w = 0x9) ∧ fieldX w' = fieldX w ∧ fieldY w' = fieldY w) ∨
     (fieldT w = 0x8 ∧ (fieldN w = 0x6 ∨ fieldN w = 0xE) ∧ fieldN w' = fieldN w ∧ fieldX w' = fieldX w)) →
    decodeWord e w' = .ok i

/-! ## The step (spec/40_step_cycle.md) -/

/-- When the word at PC decodes to `i`, the step of an idle core is `exec i` on the state in which the word is latched and PC
has moved past it (R110 to R112). -/
def Obligations.StepRunsTheDecodedInstruction : Prop :=
  ∀ (s : State) (i : Instr) (rest : List Byte), s.busy = false → s.pc.toNat ≤ 0x0FFE → i.wellFormed s.cfg.extOps = true →
    decode s.cfg.extOps (s.readByte s.pc.toNat :: s.readByte (s.pc.toNat + 1) :: rest) = .ok (i, rest) →
    ∃ u : State, step s = exec i u ∧ u.pc = s.pc + 2 ∧ u.hid.pcInsn = s.pc ∧
      u.hid.ir = wordOfBytes (s.readByte s.pc.toNat) (s.readByte (s.pc.toNat + 1)) ∧
      u = { s with pc := u.pc, hid := { s.hid with ir := u.hid.ir, pcInsn := u.hid.pcInsn } }

/-- A fetch with `PC > 0x0FFE` raises FetchOutOfBounds with `ea = max(PC, 0x1000)` and word 0, and nothing else changes, PC
included; a fetch at or below 0x0FFE does not raise it (R110, R116). -/
def Obligations.FetchBound : Prop :=
  (∀ s : State, s.busy = false → 0x0FFE < s.pc.toNat →
    ∃ t, step s = .next t ∧
      t.status = { code := .fetchOutOfBounds, word := 0, pc := s.pc, ea := BitVec.ofNat 17 (max s.pc.toNat 0x1000) } ∧
      t.log = t.status :: s.log ∧ Keeps { log := true } { s with hid := t.hid } t) ∧
  ∀ s t : State, s.busy = false → s.pc.toNat ≤ 0x0FFE → step s = .next t → t.status.code ≠ .fetchOutOfBounds

/-- An unrecognized word: PC has moved on by 2, the condition is reported with the raw word, no other state changes (R115). -/
def Obligations.UnrecognizedWordIsReportedNoOp : Prop :=
  ∀ (s : State) (w : Word) (r : DecodeReject), s.busy = false → s.fetchWord = some w → decodeWord s.cfg.extOps w = .error r →
    ∃ t, step s = .next t ∧ t.status = { code := .unrecognizedOpcode, word := w, pc := s.pc, ea := 0 } ∧
      t.pc = s.pc + 2 ∧ t.log = t.status :: s.log ∧ Keeps { pc := true, log := true } { s with hid := t.hid } t

/-- Every condition but UnrecognizedOpcode is precise: after it the state of R20 is as before the step, PC included, and
STATUS holds the condition, the word (0 for FetchOutOfBounds), `PC_insn` and the condition's `ea` or 0 (R116). -/
def Obligations.ErrorStepsArePrecise : Prop :=
  ∀ s t : State, s.busy = false → step s = .next t → t.status.code ≠ .ok → t.status.code ≠ .unrecognizedOpcode →
    (t.status.code = .fetchOutOfBounds ∨ t.status.code = .stackOverflow ∨ t.status.code = .stackUnderflow ∨
      t.status.code = .memoryOutOfBounds) ∧
    t.status.pc = s.pc ∧
    t.status.word = (if t.status.code = .fetchOutOfBounds then 0
      else wordOfBytes (s.readByte s.pc.toNat) (s.readByte (s.pc.toNat + 1))) ∧
    t.status.ea.toNat =
      (if t.status.code = .fetchOutOfBounds then max s.pc.toNat 0x1000
       else if t.status.code = .memoryOutOfBounds then max s.idx.toNat 0x1000 else 0) ∧
    Keeps { log := true } { s with hid := t.hid } t

/-- "The state is unchanged, so the step raises the same condition again" (R117, the spec's inference). -/
def Obligations.ErrorRecursOnNextStep : Prop :=
  ∀ s t : State, s.busy = false → step s = .next t → t.status.code ≠ .ok → t.status.code ≠ .unrecognizedOpcode →
    ∃ u, step t = .next u ∧ u.status = t.status ∧ u.log = t.status :: t.log ∧ Keeps { log := true } { t with hid := u.hid } u

/-- The core never halts by itself: every step, and every host operation, of every state answers a next state, and from an idle
core each leaves it idle again, ready for the next request; the FSM goes from DONE to IDLE whatever its pins (R117). -/
def Obligations.CoreNeverHalts : Prop :=
  (∀ s : State, ∃ t, step s = .next t) ∧ (∀ (i : Instr) (s : State), ∃ t, exec i s = .next t) ∧
  (∀ (ops : List HostOp) (s : State), ∃ t, hostRun ops s = .next t) ∧
  (∀ (op : HostOp) (s t : State), s.busy = false → hostOp op s = .next t → t.busy = false) ∧
  ∀ (p : Pins) (s : State), s.hid.ctl = .done → (cycle p s).busy = false

/-- A step or load requested while busy, either alone or both at once, has no effect (R102). -/
def Obligations.RequestsWhileBusyAreIgnored : Prop :=
  ∀ (s : State) (bytes : List Byte), s.busy = true →
    step s = .next s ∧ hostOp (.load bytes) s = .next s ∧
    ∀ (p : Pins) (stepReq loadReq : Bool) (len : BitVec 32),
      fsmNext { p with stepReq := stepReq, loadReq := loadReq, loadLen := len } s =
        fsmNext { p with stepReq := false, loadReq := false } s

/-- The checks of a step in their order: the fetch bound, then decode, then the one guard of the instruction; the first that
applies is reported, and a step that passes all three reports Ok (R301, the spec's inference). -/
def Obligations.ConditionPriority : Prop :=
  ∀ s t : State, s.busy = false → step s = .next t →
    t.status.code =
      if 0x0FFE < s.pc.toNat then .fetchOutOfBounds
      else match s.nextInstr with
        | none => .unrecognizedOpcode
        | some (.call _) => if s.sp.val = 16 then .stackOverflow else .ok
        | some .ret => if s.sp.val = 0 then .stackUnderflow else .ok
        | some (.ldB _) => if s.idx.toNat + 2 > 0xFFF then .memoryOutOfBounds else .ok
        | some (.dump x) => if s.idx.toNat + x.val > 0xFFF then .memoryOutOfBounds else .ok
        | some (.load x) => if s.idx.toNat + x.val > 0xFFF then .memoryOutOfBounds else .ok
        | some (.drw _ _ n) => if 1 ≤ n.val ∧ s.idx.toNat + n.val - 1 > 0xFFF then .memoryOutOfBounds else .ok
        | some _ => .ok

/-- The fields of STATUS after a step: `pc` is the address fetched from, `word` the fetched word (0 for FetchOutOfBounds), `ea`
the lowest address of the window above 0xFFF for the two bounds conditions, else 0; codes 6 and 7 never come of a step (R31).
The log gains the record exactly when its code is not Ok and loses none (R119; newest first is the model's choice, log
entry 5). -/
def Obligations.StatusAndLogRecordTheStep : Prop :=
  ∀ s t : State, s.busy = false → step s = .next t → (t.log = if t.status.code = .ok then s.log else t.status :: s.log) ∧
    t.status.pc = s.pc ∧ t.status.word = s.fetchWord.getD 0 ∧ t.status.code ≠ .romTooLarge ∧
    t.status.ea.toNat =
      (match t.status.code with
       | .memoryOutOfBounds => max s.idx.toNat 0x1000
       | .fetchOutOfBounds => max s.pc.toNat 0x1000
       | .ok | .unrecognizedOpcode | .stackOverflow | .stackUnderflow | .romTooLarge => 0)

/-! ## Control flow (spec/41_control_flow.md) -/

/-- JP addr (R140). -/
def Obligations.JpSetsPc : Prop :=
  RowDecodes 0xF000 0x1000 (fun _ => true) (fun w => .jp (fieldNNN w)) ∧
  ∀ (nnn : Addr) (s : State), ∃ t, Completes (.jp nnn) s t ∧ t.pc.toNat = nnn.toNat ∧ Keeps { pc := true } s t

/-- CALL addr (R141): the return address pushed is the advanced PC; with 16 entries StackOverflow. -/
def Obligations.CallPushesAndJumps : Prop :=
  RowDecodes 0xF000 0x2000 (fun _ => true) (fun w => .call (fieldNNN w)) ∧
  (∀ (nnn : Addr) (s : State), s.sp.val < 16 → ∃ t, Completes (.call nnn) s t ∧ t.pc.toNat = nnn.toNat ∧
    t.sp.val = s.sp.val + 1 ∧ (∀ k : Fin 16, t.stk.get k = if k.val = s.sp.val then s.pc else s.stk.get k) ∧
    Keeps { pc := true, stack := true } s t) ∧
  ∀ (nnn : Addr) (s : State), s.sp.val = 16 → Raises (.call nnn) s .stackOverflow 0

/-- RET (R142): the top entry goes to PC and stays in place; on an empty stack StackUnderflow. -/
def Obligations.RetPopsIntoPc : Prop :=
  RowDecodes 0xF00F 0x000E (fun _ => true) (fun _ => .ret) ∧
  (∀ (s : State) (k : Fin 16), s.sp.val = k.val + 1 → ∃ t, Completes .ret s t ∧ t.pc = s.stk.get k ∧ t.sp.val = k.val ∧
    (∀ j : Fin 16, t.stk.get j = s.stk.get j) ∧ Keeps { pc := true, stack := true } s t) ∧
  ∀ s : State, s.sp.val = 0 → Raises .ret s .stackUnderflow 0

/-- SE and SNE against an immediate (R143, R144): PC moves on by 2 more exactly when the register and the byte are equal,
respectively differ. -/
def Obligations.SkipOnImmediate : Prop :=
  RowDecodes 0xF000 0x3000 (fun _ => true) (fun w => .seByte (fieldX w) (fieldNN w)) ∧
  RowDecodes 0xF000 0x4000 (fun _ => true) (fun w => .sneByte (fieldX w) (fieldNN w)) ∧
  (∀ (x : Reg) (nn : Byte) (s : State), ∃ t, Completes (.seByte x nn) s t ∧
    t.pc = (if s.readV x = nn then s.pc + 2 else s.pc) ∧ Keeps { pc := true } s t) ∧
  ∀ (x : Reg) (nn : Byte) (s : State), ∃ t, Completes (.sneByte x nn) s t ∧
    t.pc = (if s.readV x = nn then s.pc else s.pc + 2) ∧ Keeps { pc := true } s t

/-- SE and SNE between registers (R145, R146). -/
def Obligations.SkipOnRegister : Prop :=
  RowDecodes 0xF000 0x5000 (fun _ => true) (fun w => .seReg (fieldX w) (fieldY w)) ∧
  RowDecodes 0xF000 0x9000 (fun _ => true) (fun w => .sneReg (fieldX w) (fieldY w)) ∧
  (∀ (x y : Reg) (s : State), ∃ t, Completes (.seReg x y) s t ∧
    t.pc = (if s.readV x = s.readV y then s.pc + 2 else s.pc) ∧ Keeps { pc := true } s t) ∧
  ∀ (x y : Reg) (s : State), ∃ t, Completes (.sneReg x y) s t ∧
    t.pc = (if s.readV x = s.readV y then s.pc else s.pc + 2) ∧ Keeps { pc := true } s t

/-! ## Registers and arithmetic (spec/42_register_arith.md) -/

/-- LD Vx, byte and LD Vx, Vy (R163, R164). -/
def Obligations.LoadsIntoRegisters : Prop :=
  RowDecodes 0xF000 0x6000 (fun _ => true) (fun w => .ldByte (fieldX w) (fieldNN w)) ∧
  RowDecodes 0xF00F 0x8000 (fun _ => true) (fun w => .ldReg (fieldX w) (fieldY w)) ∧
  (∀ (x : Reg) (nn : Byte) (s : State), ∃ t, Completes (.ldByte x nn) s t ∧
    (∀ r, t.readV r = if r = x then nn else s.readV r) ∧ Keeps { regs := true } s t) ∧
  ∀ (x y : Reg) (s : State), ∃ t, Completes (.ldReg x y) s t ∧
    (∀ r, t.readV r = if r = x then s.readV y else s.readV r) ∧ Keeps { regs := true } s t

/-- OR, AND and XOR (R165, R166, R167), bit by bit; VF changes only where it is Vx. -/
def Obligations.BitwiseOperations : Prop :=
  RowDecodes 0xF00F 0x8001 (fun _ => true) (fun w => .orReg (fieldX w) (fieldY w)) ∧
  RowDecodes 0xF00F 0x8002 (fun _ => true) (fun w => .andReg (fieldX w) (fieldY w)) ∧
  RowDecodes 0xF00F 0x8003 (fun _ => true) (fun w => .xorReg (fieldX w) (fieldY w)) ∧
  ∀ (x y : Reg) (s : State),
    (∃ t, Completes (.orReg x y) s t ∧ (∀ r, r ≠ x → t.readV r = s.readV r) ∧
      (∀ b, (t.readV x).getLsbD b = ((s.readV x).getLsbD b || (s.readV y).getLsbD b)) ∧ Keeps { regs := true } s t) ∧
    (∃ t, Completes (.andReg x y) s t ∧ (∀ r, r ≠ x → t.readV r = s.readV r) ∧
      (∀ b, (t.readV x).getLsbD b = ((s.readV x).getLsbD b && (s.readV y).getLsbD b)) ∧ Keeps { regs := true } s t) ∧
    ∃ t, Completes (.xorReg x y) s t ∧ (∀ r, r ≠ x → t.readV r = s.readV r) ∧
      (∀ b, (t.readV x).getLsbD b = ((s.readV x).getLsbD b ^^ (s.readV y).getLsbD b)) ∧ Keeps { regs := true } s t

/-- ADD Vx, Vy (R168): the sum mod 256, and VF last, 1 exactly when the true sum exceeds 255; with `x = 15` VF ends as the
carry (R162). -/
def Obligations.AddSetsSumAndCarry : Prop :=
  RowDecodes 0xF00F 0x8004 (fun _ => true) (fun w => .addReg (fieldX w) (fieldY w)) ∧
  ∀ (x y : Reg) (s : State), ∃ t, Completes (.addReg x y) s t ∧
    (∀ r, (t.readV r).toNat =
      if r = 15 then (if (s.readV x).toNat + (s.readV y).toNat > 255 then 1 else 0)
      else if r = x then ((s.readV x).toNat + (s.readV y).toNat) % 256
      else (s.readV r).toNat) ∧
    Keeps { regs := true } s t

/-- SUB and SUBN (R169, R170): the difference mod 256, and VF last, 1 exactly when no borrow occurs. -/
def Obligations.SubtractionsSetNoBorrow : Prop :=
  RowDecodes 0xF00F 0x8005 (fun _ => true) (fun w => .subReg (fieldX w) (fieldY w)) ∧
  RowDecodes 0xF00F 0x8007 (fun _ => true) (fun w => .subn (fieldX w) (fieldY w)) ∧
  (∀ (x y : Reg) (s : State), ∃ t, Completes (.subReg x y) s t ∧
    (∀ r, ((t.readV r).toNat : Int) =
      if r = 15 then (if (s.readV x).toNat ≥ (s.readV y).toNat then 1 else 0)
      else if r = x then (((s.readV x).toNat : Int) - ((s.readV y).toNat : Int)) % 256
      else ((s.readV r).toNat : Int)) ∧
    Keeps { regs := true } s t) ∧
  ∀ (x y : Reg) (s : State), ∃ t, Completes (.subn x y) s t ∧
    (∀ r, ((t.readV r).toNat : Int) =
      if r = 15 then (if (s.readV y).toNat ≥ (s.readV x).toNat then 1 else 0)
      else if r = x then (((s.readV y).toNat : Int) - ((s.readV x).toNat : Int)) % 256
      else ((s.readV r).toNat : Int)) ∧
    Keeps { regs := true } s t

/-- SHR and SHL (R171, R172): a shift of Vx by one, and VF last, the bit shifted out; no other register is read or written. -/
def Obligations.ShiftsSetTheBitShiftedOut : Prop :=
  RowDecodes 0xF00F 0x8006 (fun _ => true) (fun w => .shr (fieldX w)) ∧
  RowDecodes 0xF00F 0x800E (fun _ => true) (fun w => .shl (fieldX w)) ∧
  (∀ (x : Reg) (s : State), ∃ t, Completes (.shr x) s t ∧
    (∀ r, (t.readV r).toNat =
      if r = 15 then (s.readV x).toNat % 2 else if r = x then (s.readV x).toNat / 2 else (s.readV r).toNat) ∧
    Keeps { regs := true } s t) ∧
  ∀ (x : Reg) (s : State), ∃ t, Completes (.shl x) s t ∧
    (∀ r, (t.readV r).toNat =
      if r = 15 then (s.readV x).toNat / 128 else if r = x then (s.readV x).toNat * 2 % 256 else (s.readV r).toNat) ∧
    Keeps { regs := true } s t

/-! ## Memory and index (spec/43_memory_index.md) -/

/-- LD I, addr (R190). -/
def Obligations.LdISetsIndex : Prop :=
  RowDecodes 0xF000 0xA000 (fun _ => true) (fun w => .ldI (fieldNNN w)) ∧
  ∀ (nnn : Addr) (s : State), ∃ t, Completes (.ldI nnn) s t ∧ t.idx.toNat = nnn.toNat ∧ Keeps { idx := true } s t

/-- LD B, Vx (R192): the decimal digits at I, I+1, I+2, every other byte as before; a window above 0xFFF raises and writes
nothing. -/
def Obligations.BcdStoresTheDigits : Prop :=
  RowDecodes 0xF0FF 0xF033 (fun _ => true) (fun w => .ldB (fieldX w)) ∧
  (∀ (x : Reg) (s : State), s.MemOk → s.idx.toNat + 2 ≤ 0xFFF → ∃ t, Completes (.ldB x) s t ∧
    (∀ a, (t.readByte a).toNat =
      if a = s.idx.toNat then (s.readV x).toNat / 100
      else if a = s.idx.toNat + 1 then (s.readV x).toNat / 10 % 10
      else if a = s.idx.toNat + 2 then (s.readV x).toNat % 10
      else (s.readByte a).toNat) ∧
    Keeps { mem := true } s t) ∧
  ∀ (x : Reg) (s : State), s.idx.toNat + 2 > 0xFFF → Raises (.ldB x) s .memoryOutOfBounds (max s.idx.toNat 0x1000)

/-- LD [I], Vx (R193): V0..Vx inclusive to memory from I on, every other byte as before, I unchanged (R196); a window above
0xFFF raises and writes nothing. -/
def Obligations.DumpStoresTheRegisters : Prop :=
  RowDecodes 0xF0FF 0xF055 (fun _ => true) (fun w => .dump (fieldX w)) ∧
  (∀ (x : Reg) (s : State), s.MemOk → s.idx.toNat + x.val ≤ 0xFFF → ∃ t, Completes (.dump x) s t ∧
    (∀ r : Reg, r ≤ x → t.readByte (s.idx.toNat + r.val) = s.readV r) ∧
    (∀ a, (a < s.idx.toNat ∨ s.idx.toNat + x.val < a) → t.readByte a = s.readByte a) ∧
    Keeps { mem := true } s t) ∧
  ∀ (x : Reg) (s : State), s.idx.toNat + x.val > 0xFFF → Raises (.dump x) s .memoryOutOfBounds (max s.idx.toNat 0x1000)

/-- LD Vx, [I] (R194): V0..Vx inclusive from memory from I on, the registers above Vx and I unchanged (R196); a window above
0xFFF raises and writes nothing. -/
def Obligations.LoadReadsTheRegisters : Prop :=
  RowDecodes 0xF0FF 0xF065 (fun _ => true) (fun w => .load (fieldX w)) ∧
  (∀ (x : Reg) (s : State), s.idx.toNat + x.val ≤ 0xFFF → ∃ t, Completes (.load x) s t ∧
    (∀ r : Reg, t.readV r = if r ≤ x then s.readByte (s.idx.toNat + r.val) else s.readV r) ∧ Keeps { regs := true } s t) ∧
  ∀ (x : Reg) (s : State), s.idx.toNat + x.val > 0xFFF → Raises (.load x) s .memoryOutOfBounds (max s.idx.toNat 0x1000)

/-- A dump, then a load at the same index and register range, gives the registers back, whatever the registers held in
between; and where the dump raised, the load raises as well (R195, the spec's inference). -/
def Obligations.DumpThenLoadRoundTrips : Prop :=
  ∀ (x : Reg) (s t m u : State), s.MemOk → exec (.dump x) s = .next t →
    m.cfg = t.cfg → m.mem = t.mem → m.idx = t.idx → exec (.load x) m = .next u →
    (t.status.code = .ok → u.status.code = .ok ∧ ∀ r : Reg, r ≤ x → u.readV r = s.readV r) ∧
    (t.status.code = .memoryOutOfBounds → u.status.code = .memoryOutOfBounds) ∧
    (t.status.code = .ok ∨ t.status.code = .memoryOutOfBounds)

/-- "A write made by FX33 or FX55 in step k is seen by the fetch of every later step" (R61, the spec's inference), shown for
a dump over the two bytes of an instruction. -/
def Obligations.FetchSeesDumpedBytes : Prop :=
  ∀ (x : Reg) (s t m : State) (r q : Reg), s.MemOk → exec (.dump x) s = .next t → t.status.code = .ok →
    m.cfg = t.cfg → m.mem = t.mem → q ≤ x → q.val = r.val + 1 → m.pc.toNat = s.idx.toNat + r.val →
    m.fetchWord = some (wordOfBytes (s.readV r) (s.readV q))

/-! ## Display (spec/44_display.md) -/

/-- CLS (R210): all 2048 cells off, VF unchanged. -/
def Obligations.ClsClearsEveryCell : Prop :=
  RowDecodes 0xF00F 0x0000 (fun _ => true) (fun _ => .cls) ∧
  ∀ s : State, ∃ t, Completes .cls s t ∧ (∀ c : Fin 2048, t.fbRead c = false) ∧ Keeps { fb := true } s t

/-- DRW Vx, Vy, n (R211): every cell the sprite covers with a set bit is flipped, no other, clipped at the edges; VF is 1
exactly when a covered cell was on; a window above 0xFFF raises when `n ≥ 1`. -/
def Obligations.DrwFlipsCoveredCells : Prop :=
  RowDecodes 0xF000 0xD000 (fun _ => true) (fun w => .drw (fieldX w) (fieldY w) (fieldN w)) ∧
  (∀ (x y : Reg) (n : Fin 16) (s : State), (1 ≤ n.val → s.idx.toNat + n.val - 1 ≤ 0xFFF) → ∃ t, Completes (.drw x y n) s t ∧
    (∀ px py, px < 64 → py < 32 → fbAt t.fb px py = (fbAt s.fb px py ^^ spriteCovers s x y n.val px py)) ∧
    (∀ r, r ≠ 15 → t.readV r = s.readV r) ∧ (t.readV 15 = 0 ∨ t.readV 15 = 1) ∧
    (t.readV 15 = 1 ↔ ∃ px py, px < 64 ∧ py < 32 ∧ spriteCovers s x y n.val px py = true ∧ fbAt s.fb px py = true) ∧
    Keeps { regs := true, fb := true } s t) ∧
  ∀ (x y : Reg) (n : Fin 16) (s : State), 1 ≤ n.val → s.idx.toNat + n.val - 1 > 0xFFF →
    Raises (.drw x y n) s .memoryOutOfBounds (max s.idx.toNat 0x1000)

/-- The row form of the compositor is equal to the cell-by-cell form: same framebuffer, same collision flag, for every sprite
and every start (R213, the spec's inference). -/
def Obligations.RowFormEqualsCellForm : Prop :=
  ∀ (rows : List Byte) (x0 y0 : Nat) (k : Canvas), x0 < 64 → composeSprite rows x0 y0 k = plotSprite rows x0 y0 k

/-- Drawing the same sprite twice at the same place restores the framebuffer, and the second draw gives VF = 1 exactly when a
set bit of the sprite fell on a cell of the grid that was off before the first draw. R214, the spec's inference, says "exactly when
at least one set bit of the sprite fell inside the grid", which R211 does not bear out where such a cell was on before: the last
clause shows a second draw of a set bit inside the grid that gives VF = 0 (log entry 14). -/
def Obligations.DrawingTwiceRestores : Prop :=
  (∀ (x y x' y' : Reg) (n : Fin 16) (s t m u : State), exec (.drw x y n) s = .next t → t.status.code = .ok →
    m.cfg = t.cfg → m.mem = t.mem → m.idx = t.idx → m.fb = t.fb →
    m.startX x' = s.startX x → m.startY y' = s.startY y → exec (.drw x' y' n) m = .next u →
    (∀ c : Fin 2048, u.fbRead c = s.fbRead c) ∧ u.status.code = .ok ∧
    (u.readV 15 = 1 ↔ ∃ px py, px < 64 ∧ py < 32 ∧ spriteCovers s x y n.val px py = true ∧ fbAt s.fb px py = false) ∧
    (u.readV 15 = 0 ∨ u.readV 15 = 1)) ∧
  ∃ (x y : Reg) (n : Fin 16) (s t u : State), exec (.drw x y n) s = .next t ∧ t.status.code = .ok ∧
    exec (.drw x y n) t = .next u ∧ u.status.code = .ok ∧
    (∃ px py, px < 64 ∧ py < 32 ∧ spriteCovers s x y n.val px py = true) ∧ u.readV 15 = 0

/-! ## Timers (spec/45_timers.md) -/

/-- LD DT, Vx and LD ST, Vx (R230, R231): the register's value goes to the counter. A tick in the clock cycle of the write is
ordered before it, so the counter ends as `V[x]`. -/
def Obligations.TimerLoads : Prop :=
  RowDecodes 0xF0FF 0xF015 (fun _ => true) (fun w => .ldDT (fieldX w)) ∧
  RowDecodes 0xF0FF 0xF018 (fun _ => true) (fun w => .ldST (fieldX w)) ∧
  (∀ (x : Reg) (s : State), ∃ t, Completes (.ldDT x) s t ∧ t.dt = s.readV x ∧ Keeps { dt := true } s t) ∧
  (∀ (x : Reg) (s : State), ∃ t, Completes (.ldST x) s t ∧ t.st = s.readV x ∧
    (t.soundOn = true ↔ s.readV x ≠ 0) ∧ Keeps { st := true } s t) ∧
  (∀ (x : Reg) (s : State), s.hid.ctl = .ex1 → s.current = .ok (.ldDT x) → (cycle { tick := true } s).dt = s.readV x) ∧
  ∀ (x : Reg) (s : State), s.hid.ctl = .ex1 → s.current = .ok (.ldST x) → (cycle { tick := true } s).st = s.readV x

/-- Tick (R232): each counter that is not zero goes down by exactly one, one at zero stays; nothing else changes, STATUS
included. -/
def Obligations.TickDecrementsNonzeroCounters : Prop :=
  ∀ s : State, ∃ t, hostOp .tick s = .next t ∧ t.dt.toNat = s.dt.toNat - 1 ∧ t.st.toNat = s.st.toNat - 1 ∧
    t.status = s.status ∧ Keeps { dt := true, st := true } s t

/-! ## The members of EXT_OPS (spec/46_optional_standard.md) -/

/-- ADD Vx, byte (R251): the sum mod 256, no carry into VF. -/
def Obligations.AddImmediate : Prop :=
  RowDecodes 0xF000 0x7000 (fun e => e.addImm) (fun w => .addByte (fieldX w) (fieldNN w)) ∧
  ∀ (x : Reg) (nn : Byte) (s : State), ∃ t, Completes (.addByte x nn) s t ∧
    (∀ r, (t.readV r).toNat = if r = x then ((s.readV x).toNat + nn.toNat) % 256 else (s.readV r).toNat) ∧
    Keeps { regs := true } s t

/-- JP V0, addr (R252): the offset comes from V0, with no wrap. -/
def Obligations.JumpWithOffset : Prop :=
  RowDecodes 0xF000 0xB000 (fun e => e.jpV0) (fun w => .jpV0 (fieldNNN w)) ∧
  ∀ (nnn : Addr) (s : State), ∃ t, Completes (.jpV0 nnn) s t ∧ t.pc.toNat = nnn.toNat + (s.readV 0).toNat ∧
    Keeps { pc := true } s t

/-- RND Vx, byte (R253, R261): the sample of `rnd`, masked; the sample is the one the host supplied next, whatever it is, and
one sample is taken. Where none is waiting the sample is a free draw. -/
def Obligations.RandomByteIsMasked : Prop :=
  RowDecodes 0xF000 0xC000 (fun e => e.rnd) (fun w => .rnd (fieldX w) (fieldNN w)) ∧
  (∀ (x : Reg) (nn : Byte) (s : State), ∃ t, Completes (.rnd x nn) s t ∧
    (∀ b, (t.readV x).getLsbD b = (s.rndSample.getLsbD b && nn.getLsbD b)) ∧ (∀ r, r ≠ x → t.readV r = s.readV r) ∧
    t.env.rnd = s.env.rnd.tail ∧ t.env.keys = s.env.keys ∧ Keeps { regs := true, env := true } s t) ∧
  ∀ (s : State) (r : Byte) (rs : List Byte), s.env.rnd = r :: rs → s.rndSample = r

/-- SKP and SKNP (R254, R255, R260): the key named by the low nibble of Vx, in one sample of `keys`. -/
def Obligations.SkipOnKey : Prop :=
  RowDecodes 0xF0FF 0xE09E (fun e => e.skp) (fun w => .skp (fieldX w)) ∧
  RowDecodes 0xF0FF 0xE0A1 (fun e => e.sknp) (fun w => .sknp (fieldX w)) ∧
  (∀ (x : Reg) (s : State), ∃ t, Completes (.skp x) s t ∧
    t.pc = (if s.keysSample.getLsbD ((s.readV x).toNat % 16) = true then s.pc + 2 else s.pc) ∧
    t.env.keys = s.env.keys.tail ∧ t.env.rnd = s.env.rnd ∧ Keeps { pc := true, env := true } s t) ∧
  (∀ (x : Reg) (s : State), ∃ t, Completes (.sknp x) s t ∧
    t.pc = (if s.keysSample.getLsbD ((s.readV x).toNat % 16) = true then s.pc else s.pc + 2) ∧
    t.env.keys = s.env.keys.tail ∧ t.env.rnd = s.env.rnd ∧ Keeps { pc := true, env := true } s t) ∧
  ∀ (s : State) (k : BitVec 16) (ks : List (BitVec 16)), s.env.keys = k :: ks → s.keysSample = k

/-- LD Vx, DT (R256). A tick in the clock cycle of the read is ordered after it: that this cycle is EX_1 is the model's inference
(log entry 10). -/
def Obligations.ReadDelayTimer : Prop :=
  RowDecodes 0xF0FF 0xF007 (fun e => e.ldVxDt) (fun w => .ldVxDT (fieldX w)) ∧
  (∀ (x : Reg) (s : State), ∃ t, Completes (.ldVxDT x) s t ∧ (∀ r, t.readV r = if r = x then s.dt else s.readV r) ∧
    Keeps { regs := true } s t) ∧
  ∀ (x : Reg) (s : State), s.hid.ctl = .ex1 → s.current = .ok (.ldVxDT x) →
    (cycle { tick := true } s).readV x = s.dt ∧ (cycle { tick := true } s).dt.toNat = s.dt.toNat - 1

/-- LD Vx, K (R257): with no key held PC goes back to `PC_insn` and the step is Ok; else Vx gets the lowest key held. -/
def Obligations.WaitForKey : Prop :=
  RowDecodes 0xF0FF 0xF00A (fun e => e.ldVxK) (fun w => .ldVxK (fieldX w)) ∧
  ∀ (x : Reg) (s : State), ∃ t, Completes (.ldVxK x) s t ∧ t.env.keys = s.env.keys.tail ∧ t.env.rnd = s.env.rnd ∧
    (s.keysSample = 0 → t.pc = s.hid.pcInsn ∧ Keeps { pc := true, env := true } s t) ∧
    (s.keysSample ≠ 0 → s.keysSample.getLsbD (t.readV x).toNat = true ∧
      (∀ k, k < (t.readV x).toNat → s.keysSample.getLsbD k = false) ∧ (∀ r, r ≠ x → t.readV r = s.readV r) ∧
      Keeps { regs := true, env := true } s t)

/-- ADD I, Vx (R258): mod 65536, VF not written; LD F, Vx (R259): the address of the glyph of the low nibble. -/
def Obligations.IndexExtensions : Prop :=
  RowDecodes 0xF0FF 0xF01E (fun e => e.addI) (fun w => .addI (fieldX w)) ∧
  RowDecodes 0xF0FF 0xF029 (fun e => e.ldF) (fun w => .ldF (fieldX w)) ∧
  (∀ (x : Reg) (s : State), ∃ t, Completes (.addI x) s t ∧ t.idx.toNat = (s.idx.toNat + (s.readV x).toNat) % 65536 ∧
    Keeps { idx := true } s t) ∧
  ∀ (x : Reg) (s : State), ∃ t, Completes (.ldF x) s t ∧ t.idx.toNat = 0x050 + 5 * ((s.readV x).toNat % 16) ∧
    Keeps { idx := true } s t

/-! ## Reset and load (spec/70_reset_and_hazards.md) -/

/-- Reset sets every piece of state to its value of R34 (R331); FONT is the core's parameter. -/
def Obligations.ResetValues : Prop :=
  ∀ s : State, ∃ t, hostOp .reset s = .next t ∧ (∀ r, t.readV r = 0) ∧ t.idx = 0 ∧ t.pc = 0x200 ∧ t.sp.val = 0 ∧
    (∀ k : Fin 16, t.stk.get k = 0) ∧ t.dt = 0 ∧ t.st = 0 ∧ (∀ c : Fin 2048, t.fbRead c = false) ∧
    (∀ a : Fin 80, t.readByte (0x050 + a.val) = s.cfg.font.get a) ∧
    (∀ a, (a < 0x050 ∨ 0x0A0 ≤ a) → t.readByte a = 0) ∧
    t.status = { code := .ok, word := 0, pc := 0, ea := 0 } ∧ t.hid.ctl = .idle ∧ t.cfg = s.cfg

/-- Load (R332): more than 3584 bytes is RomTooLarge and changes nothing but STATUS and the log; else every piece of state at
its reset value, the font restored, the image at 0x200, zero after it, and STATUS Ok. -/
def Obligations.LoadCopiesTheRom : Prop :=
  (∀ (s : State) (bytes : List Byte), s.busy = false → 3584 < bytes.length → ∃ t, hostOp (.load bytes) s = .next t ∧
    t.status = { code := .romTooLarge, word := 0, pc := 0, ea := 0 } ∧ Keeps { log := true } s t) ∧
  ∀ (s : State) (bytes : List Byte), s.busy = false → bytes.length ≤ 3584 → ∃ t, hostOp (.load bytes) s = .next t ∧
    t.status = { code := .ok, word := 0, pc := 0, ea := 0 } ∧ t.log = [] ∧
    (∀ r, t.readV r = 0) ∧ t.idx = 0 ∧ t.pc = 0x200 ∧ t.sp.val = 0 ∧ (∀ k : Fin 16, t.stk.get k = 0) ∧ t.dt = 0 ∧ t.st = 0 ∧
    (∀ c : Fin 2048, t.fbRead c = false) ∧ t.hid.ctl = .idle ∧ t.cfg = s.cfg ∧ t.env = s.env ∧
    (∀ a : Fin 80, t.readByte (0x050 + a.val) = s.cfg.font.get a) ∧
    (∀ a, a < 0x050 ∨ (0x0A0 ≤ a ∧ a < 0x200) → t.readByte a = 0) ∧
    ∀ a, 0x200 ≤ a → t.readByte a = bytes.getD (a - 0x200) 0

/-- Loading a ROM whose first instruction is `JP 0x200+N`, then stepping once: PC is `0x200 + N`, and no other state changes
except STATUS (R335, the spec's inference). -/
def Obligations.LoadThenJump : Prop :=
  ∀ (s : State) (target : Addr) (rest : List Byte), s.busy = false → rest.length ≤ 3582 →
    ∃ t u, hostOp (.load (bytesOfWord (encode (.jp target)) ++ rest)) s = .next t ∧ step t = .next u ∧
      u.pc.toNat = target.toNat ∧ u.status = { code := .ok, word := encode (.jp target), pc := 0x200, ea := 0 } ∧
      Keeps { pc := true } { t with hid := u.hid } u

/-! ## Whole-machine rules -/

/-- The invariant holds after reset: memory in canonical form, `I ≤ 0x0FFF`, PC and return addresses in range, the log
holding the last report. -/
def Obligations.InvariantHoldsAtReset : Prop := State.reset.Inv ∧ ∀ s : State, s.hostReset.Inv

/-- Every host operation, a step among them, keeps the invariant, from every state that meets it (R24 and R26 are the spec's
inferences; the canonical form is the model's). -/
def Obligations.EveryHostOperationKeepsTheInvariant : Prop :=
  ∀ (op : HostOp) (s t : State), s.Inv → hostOp op s = .next t → t.Inv

/-- A step changes a byte of memory only as LD B within its three bytes, or as LD [I], Vx within V0..Vx (R56, R112), and a
framebuffer cell only as CLS or DRW (R29, R215). -/
def Obligations.OnlyTheirInstructionsWriteMemoryAndFramebuffer : Prop :=
  (∀ (s t : State) (a : Nat), step s = .next t → t.readByte a ≠ s.readByte a →
    (∃ x, s.nextInstr = some (.ldB x) ∧ s.idx.toNat ≤ a ∧ a ≤ s.idx.toNat + 2) ∨
    ∃ x : Reg, s.nextInstr = some (.dump x) ∧ s.idx.toNat ≤ a ∧ a ≤ s.idx.toNat + x.val) ∧
  ∀ (s t : State) (c : Fin 2048), step s = .next t → t.fbRead c ≠ s.fbRead c →
    s.nextInstr = some .cls ∨ ∃ x y n, s.nextInstr = some (.drw x y n)

/-- "push only on subroutine call, pop only on return" (R27); only LD I, ADD I and LD F change I (R24); no step decrements a
timer: only LD DT and LD ST change them (R233). -/
def Obligations.OnlyTheirInstructionsWriteStackIndexAndTimers : Prop :=
  ∀ s t : State, step s = .next t →
    ((t.sp ≠ s.sp ∨ ∃ k : Fin 16, t.stk.get k ≠ s.stk.get k) → (∃ nnn, s.nextInstr = some (.call nnn)) ∨ s.nextInstr = some .ret) ∧
    (t.idx ≠ s.idx → (∃ nnn, s.nextInstr = some (.ldI nnn)) ∨ (∃ x, s.nextInstr = some (.addI x)) ∨
      ∃ x, s.nextInstr = some (.ldF x)) ∧
    (t.dt ≠ s.dt → ∃ x, s.nextInstr = some (.ldDT x)) ∧ (t.st ≠ s.st → ∃ x, s.nextInstr = some (.ldST x)) ∧ t.cfg = s.cfg

/-- No instruction reads STATUS, nor the log: changing them before a step changes nothing it does (R31, R32). -/
def Obligations.NoInstructionReadsStatus : Prop :=
  ∀ (s t : State) (q : Status) (l : List Status), s.busy = false → step s = .next t →
    step { s with status := q, log := l } = .next { t with log := if t.status.code = .ok then l else t.status :: l }

/-- In a configuration without LD_VX_DT no instruction reads DT or ST: what a step does to the rest of the state does not
depend on them, and each timer is either left as it was, or ends at a value that depends on neither (R235). -/
def Obligations.TimersAreUnreadByDefault : Prop :=
  ∀ (s t : State) (dt st : Byte), s.cfg.extOps.ldVxDt = false → step s = .next t →
    ∃ u, step { s with dt := dt, st := st } = .next u ∧ { u with dt := t.dt, st := t.st } = t ∧
      (u.dt = t.dt ∨ (u.dt = dt ∧ t.dt = s.dt)) ∧ (u.st = t.st ∨ (u.st = st ∧ t.st = s.st))

/-- "An entry at an index `>= SP` can be observed by no instruction" (R27): two states whose stacks agree below SP stay so,
and agree in all else. -/
def Obligations.StaleStackEntriesAreUnobservable : Prop :=
  ∀ (s t : State) (stk : Vector Word 16), (∀ k : Fin 16, k.val < s.sp.val → stk.get k = s.stk.get k) → step s = .next t →
    ∃ u, step { s with stk := stk } = .next u ∧ { u with stk := t.stk } = t ∧
      ∀ k : Fin 16, k.val < t.sp.val → u.stk.get k = t.stk.get k

/-! ## The control FSM (spec/40_step_cycle.md R120) -/

/-- The FSM computes the atomic step: from an idle core, a step request leads in exactly the cycles of R345 to the `done`
pulse, no earlier, busy all the while, with the state of R20, the log and the samples as the atomic step leaves them.
Log entry 10 says what the model infers of the FSM. -/
def Obligations.FsmComputesTheAtomicStep : Prop :=
  ∀ s t : State, s.busy = false → step s = .next t →
    (runCycles (List.replicate (s.stepCycles - 1) Pins.quiet) (requestStep s)).hid.ctl = .done ∧
    (runCycles (List.replicate (s.stepCycles - 1) Pins.quiet) (requestStep s)).arch = t.arch ∧
    ∀ m, m + 1 < s.stepCycles → (runCycles (List.replicate m Pins.quiet) (requestStep s)).busy = true ∧
      (runCycles (List.replicate m Pins.quiet) (requestStep s)).hid.ctl ≠ .done

/-- A framebuffer read in any cycle of a step gives the old or the new value of the cell (R103), and a read that the model
leaves free does too. -/
def Obligations.FramebufferReadsOldOrNewWhileBusy : Prop :=
  (∀ (s t : State) (m : Nat) (c : Fin 2048), s.busy = false → step s = .next t → m + 1 ≤ s.stepCycles →
    (runCycles (List.replicate m Pins.quiet) (requestStep s)).fbPort c = s.fbRead c ∨
    (runCycles (List.replicate m Pins.quiet) (requestStep s)).fbPort c = t.fbRead c) ∧
  ∀ (s t : State) (c : Fin 2048) (n : Nat),
    (fbReadDuring s t c n = s.fbRead c ∨ fbReadDuring s t c n = t.fbRead c) ∧
    (s.fbRead c = t.fbRead c → fbReadDuring s t c n = s.fbRead c)

/-- A tick that arrives in a cycle of a running step acts as a tick before the step or as one after it (R106). -/
def Obligations.TickDuringAStepIsSerialized : Prop :=
  ∀ (s : State) (m : Nat), s.busy = false → m + 1 < s.stepCycles →
    ∃ t, StepWithTick s t ∧
      (runCycles (List.replicate m Pins.quiet ++ [{ tick := true }] ++ List.replicate (s.stepCycles - 2 - m) Pins.quiet)
        (requestStep s)).arch = t.arch

/-- The FSM's load (R333): a load of at most 3584 bytes that come one per cycle is done after exactly the cycles of R345 with
the state of the atomic load; a larger one is done after 3 cycles with RomTooLarge and no byte taken. -/
def Obligations.FsmComputesTheLoad : Prop :=
  (∀ (s : State) (bytes : List Byte), s.MemOk → s.busy = false → bytes.length ≤ 3584 →
    (List.replicate 4097 Pins.quiet ++ bytes.map Pins.byte).length + 1 = loadCycles bytes.length ∧
    (runCycles (List.replicate 4097 Pins.quiet ++ bytes.map Pins.byte) (requestLoad (BitVec.ofNat 32 bytes.length) s)).hid.ctl = .done ∧
    (runCycles (List.replicate 4097 Pins.quiet ++ bytes.map Pins.byte) (requestLoad (BitVec.ofNat 32 bytes.length) s)).arch =
      (s.load bytes).arch) ∧
  ∀ (s : State) (len : BitVec 32) (bytes : List Byte), s.busy = false → 3584 < len.toNat → bytes.length = len.toNat →
    (runCycles (List.replicate 2 Pins.quiet) (requestLoad len s)).hid.ctl = .done ∧
    (runCycles (List.replicate 2 Pins.quiet) (requestLoad len s)).arch = (s.load bytes).arch

/-- While a load runs, every framebuffer read gives the committed value of the cell, that of before the load, whatever the load's
length, however its bytes come and whatever else the host does but reset; in the cycle of `done` of a load that was accepted the
read gives the cleared cell (R103, R333). Log entry 20 says how the model's FSM does so. -/
def Obligations.FramebufferReadsAreCommittedDuringALoad : Prop :=
  (∀ (s : State) (len : BitVec 32) (ps : List Pins) (c : Fin 2048), s.busy = false → (∀ p ∈ ps, p.rst = false) →
    (∀ m, m ≤ ps.length → (runCycles (ps.take m) (requestLoad len s)).hid.ctl ≠ .done) →
    (runCycles ps (requestLoad len s)).busy = true ∧
    (runCycles ps (requestLoad len s)).fbPort c = fbReadDuringLoad s c) ∧
  ∀ (s : State) (bytes : List Byte) (c : Fin 2048), s.busy = false → bytes.length ≤ 3584 →
    (runCycles (List.replicate 4097 Pins.quiet ++ bytes.map Pins.byte)
      (requestLoad (BitVec.ofNat 32 bytes.length) s)).fbPort c = false
end

