-- ==== Sys2Proof/Laws/Decode.lean ====
section
/-! SUPPORT. The fields of a packed word (spec/30_encoding.md R71), the bytes of a word (R52), and one lemma that says once what
the decoder answers. -/

namespace Sys2Proof

/-! ## Fields as numbers -/

theorem fieldT_val (w : Word) : (fieldT w).val = w.toNat / 4096 % 16 := by
  simp [fieldT, Nat.shiftRight_eq_div_pow]
theorem fieldX_val (w : Word) : (fieldX w).val = w.toNat / 256 % 16 := by
  simp [fieldX, Nat.shiftRight_eq_div_pow]
theorem fieldY_val (w : Word) : (fieldY w).val = w.toNat / 16 % 16 := by
  simp [fieldY, Nat.shiftRight_eq_div_pow]
theorem fieldN_val (w : Word) : (fieldN w).val = w.toNat % 16 := by
  simp [fieldN]
theorem fieldNN_toNat (w : Word) : (fieldNN w).toNat = w.toNat % 256 := by
  simp [fieldNN, BitVec.extractLsb'_toNat]
theorem fieldNNN_toNat (w : Word) : (fieldNNN w).toNat = w.toNat % 4096 := by
  simp [fieldNNN, BitVec.extractLsb'_toNat]

/-! ## Fields of packed words -/

theorem packNibbles_toNat (t x y n : Fin 16) :
    (packNibbles t x y n).toNat = t.val * 4096 + x.val * 256 + y.val * 16 + n.val := by
  have := t.isLt; have := x.isLt; have := y.isLt; have := n.isLt
  simp only [packNibbles, BitVec.toNat_ofNat]
  omega
theorem packByte_toNat (t x : Fin 16) (nn : Byte) : (packByte t x nn).toNat = t.val * 4096 + x.val * 256 + nn.toNat := by
  have := t.isLt; have := x.isLt; have := nn.isLt
  simp only [packByte, BitVec.toNat_ofNat]
  omega
theorem packAddr_toNat (t : Fin 16) (nnn : Addr) : (packAddr t nnn).toNat = t.val * 4096 + nnn.toNat := by
  have := t.isLt; have := nnn.isLt
  simp only [packAddr, BitVec.toNat_ofNat]
  omega

@[simp] theorem fieldT_packNibbles (t x y n : Fin 16) : fieldT (packNibbles t x y n) = t := by
  apply Fin.ext; rw [fieldT_val, packNibbles_toNat]; omega
@[simp] theorem fieldX_packNibbles (t x y n : Fin 16) : fieldX (packNibbles t x y n) = x := by
  apply Fin.ext; rw [fieldX_val, packNibbles_toNat]; omega
@[simp] theorem fieldY_packNibbles (t x y n : Fin 16) : fieldY (packNibbles t x y n) = y := by
  apply Fin.ext; rw [fieldY_val, packNibbles_toNat]; omega
@[simp] theorem fieldN_packNibbles (t x y n : Fin 16) : fieldN (packNibbles t x y n) = n := by
  apply Fin.ext; rw [fieldN_val, packNibbles_toNat]; omega
@[simp] theorem fieldT_packByte (t x : Fin 16) (nn : Byte) : fieldT (packByte t x nn) = t := by
  apply Fin.ext; rw [fieldT_val, packByte_toNat]; have := nn.isLt; omega
@[simp] theorem fieldX_packByte (t x : Fin 16) (nn : Byte) : fieldX (packByte t x nn) = x := by
  apply Fin.ext; rw [fieldX_val, packByte_toNat]; have := nn.isLt; omega
@[simp] theorem fieldNN_packByte (t x : Fin 16) (nn : Byte) : fieldNN (packByte t x nn) = nn := by
  apply BitVec.eq_of_toNat_eq; rw [fieldNN_toNat, packByte_toNat]; have := nn.isLt; omega
@[simp] theorem fieldT_packAddr (t : Fin 16) (nnn : Addr) : fieldT (packAddr t nnn) = t := by
  apply Fin.ext; rw [fieldT_val, packAddr_toNat]; have := nnn.isLt; omega
@[simp] theorem fieldNNN_packAddr (t : Fin 16) (nnn : Addr) : fieldNNN (packAddr t nnn) = nnn := by
  apply BitVec.eq_of_toNat_eq; rw [fieldNNN_toNat, packAddr_toNat]; have := nnn.isLt; omega

/-! ## Bytes of a word -/

theorem wordOfBytes_toNat (hi lo : Byte) : (wordOfBytes hi lo).toNat = hi.toNat * 256 + lo.toNat := by
  have := lo.isLt
  simp only [wordOfBytes, BitVec.toNat_append]
  rw [← Nat.shiftLeft_add_eq_or_of_lt this, Nat.shiftLeft_eq]

theorem highByte_toNat (w : Word) : (highByte w).toNat = w.toNat / 256 := by
  have := w.isLt
  simp only [highByte, BitVec.extractLsb'_toNat, Nat.shiftRight_eq_div_pow]
  omega
theorem lowByte_toNat (w : Word) : (lowByte w).toNat = w.toNat % 256 := by
  simp [lowByte, BitVec.extractLsb'_toNat]

@[simp] theorem wordOfBytes_bytes (w : Word) : wordOfBytes (highByte w) (lowByte w) = w := by
  apply BitVec.eq_of_toNat_eq; rw [wordOfBytes_toNat, highByte_toNat, lowByte_toNat]; omega
@[simp] theorem highByte_wordOfBytes (hi lo : Byte) : highByte (wordOfBytes hi lo) = hi := by
  apply BitVec.eq_of_toNat_eq; rw [highByte_toNat, wordOfBytes_toNat]; have := lo.isLt; omega
@[simp] theorem lowByte_wordOfBytes (hi lo : Byte) : lowByte (wordOfBytes hi lo) = lo := by
  apply BitVec.eq_of_toNat_eq; rw [lowByte_toNat, wordOfBytes_toNat]; have := lo.isLt; omega

/-! ## What the decoder answers -/

theorem ifEnabled_eq_ok (c : Bool) (i j : Instr) (r : DecodeReject) : ifEnabled c i r = .ok j ↔ c = true ∧ j = i := by
  cases c <;> simp [ifEnabled, eq_comm]

end Sys2Proof
end

