-- ==== Sys2Proof/Laws/State.lean ====
section
/-! SUPPORT. One lemma per field per update of the state, each true by definition, so that no later proof unfolds a record
update. -/

namespace Sys2Proof.Machine

/-! ### The constants of R6, as numbers -/

@[simp] theorem memSize_eq : Config.memSize = 4096 := rfl
@[simp] theorem stackDepth_eq : Config.stackDepth = 16 := rfl
@[simp] theorem fbWidth_eq : Config.fbWidth = 64 := rfl
@[simp] theorem fbHeight_eq : Config.fbHeight = 32 := rfl
@[simp] theorem fontBase_eq : Config.fontBase = 0x050 := rfl
@[simp] theorem fontLen_eq : Config.fontLen = 80 := rfl
@[simp] theorem progBase_eq : Config.progBase = 0x200 := rfl
@[simp] theorem maxRom_eq : Config.maxRom = 3584 := rfl

/-! ### writeV -/

@[simp] theorem State.writeV_cfg (x : Reg) (b : Byte) (s : State) : (State.writeV x b s).cfg = s.cfg := rfl
@[simp] theorem State.writeV_v (x : Reg) (b : Byte) (s : State) : (State.writeV x b s).v = s.v.set x b := rfl
@[simp] theorem State.writeV_idx (x : Reg) (b : Byte) (s : State) : (State.writeV x b s).idx = s.idx := rfl
@[simp] theorem State.writeV_pc (x : Reg) (b : Byte) (s : State) : (State.writeV x b s).pc = s.pc := rfl
@[simp] theorem State.writeV_stk (x : Reg) (b : Byte) (s : State) : (State.writeV x b s).stk = s.stk := rfl
@[simp] theorem State.writeV_sp (x : Reg) (b : Byte) (s : State) : (State.writeV x b s).sp = s.sp := rfl
@[simp] theorem State.writeV_dt (x : Reg) (b : Byte) (s : State) : (State.writeV x b s).dt = s.dt := rfl
@[simp] theorem State.writeV_st (x : Reg) (b : Byte) (s : State) : (State.writeV x b s).st = s.st := rfl
@[simp] theorem State.writeV_fb (x : Reg) (b : Byte) (s : State) : (State.writeV x b s).fb = s.fb := rfl
@[simp] theorem State.writeV_mem (x : Reg) (b : Byte) (s : State) : (State.writeV x b s).mem = s.mem := rfl
@[simp] theorem State.writeV_status (x : Reg) (b : Byte) (s : State) : (State.writeV x b s).status = s.status := rfl
@[simp] theorem State.writeV_log (x : Reg) (b : Byte) (s : State) : (State.writeV x b s).log = s.log := rfl
@[simp] theorem State.writeV_hid (x : Reg) (b : Byte) (s : State) : (State.writeV x b s).hid = s.hid := rfl
@[simp] theorem State.writeV_env (x : Reg) (b : Byte) (s : State) : (State.writeV x b s).env = s.env := rfl

/-! ### writeBytes -/

@[simp] theorem State.writeBytes_cfg (a : Nat) (bs : List Byte) (s : State) : (State.writeBytes a bs s).cfg = s.cfg := rfl
@[simp] theorem State.writeBytes_v (a : Nat) (bs : List Byte) (s : State) : (State.writeBytes a bs s).v = s.v := rfl
@[simp] theorem State.writeBytes_idx (a : Nat) (bs : List Byte) (s : State) : (State.writeBytes a bs s).idx = s.idx := rfl
@[simp] theorem State.writeBytes_pc (a : Nat) (bs : List Byte) (s : State) : (State.writeBytes a bs s).pc = s.pc := rfl
@[simp] theorem State.writeBytes_stk (a : Nat) (bs : List Byte) (s : State) : (State.writeBytes a bs s).stk = s.stk := rfl
@[simp] theorem State.writeBytes_sp (a : Nat) (bs : List Byte) (s : State) : (State.writeBytes a bs s).sp = s.sp := rfl
@[simp] theorem State.writeBytes_dt (a : Nat) (bs : List Byte) (s : State) : (State.writeBytes a bs s).dt = s.dt := rfl
@[simp] theorem State.writeBytes_st (a : Nat) (bs : List Byte) (s : State) : (State.writeBytes a bs s).st = s.st := rfl
@[simp] theorem State.writeBytes_fb (a : Nat) (bs : List Byte) (s : State) : (State.writeBytes a bs s).fb = s.fb := rfl
@[simp] theorem State.writeBytes_mem (a : Nat) (bs : List Byte) (s : State) :
    (State.writeBytes a bs s).mem = Memory.writeBytes s.cfg.font s.mem a bs := rfl
@[simp] theorem State.writeBytes_status (a : Nat) (bs : List Byte) (s : State) :
    (State.writeBytes a bs s).status = s.status := rfl
@[simp] theorem State.writeBytes_log (a : Nat) (bs : List Byte) (s : State) : (State.writeBytes a bs s).log = s.log := rfl
@[simp] theorem State.writeBytes_hid (a : Nat) (bs : List Byte) (s : State) : (State.writeBytes a bs s).hid = s.hid := rfl
@[simp] theorem State.writeBytes_env (a : Nat) (bs : List Byte) (s : State) : (State.writeBytes a bs s).env = s.env := rfl

/-! ### loadRegs -/

@[simp] theorem State.loadRegs_cfg (x : Reg) (s : State) : (State.loadRegs x s).cfg = s.cfg := rfl
@[simp] theorem State.loadRegs_idx (x : Reg) (s : State) : (State.loadRegs x s).idx = s.idx := rfl
@[simp] theorem State.loadRegs_pc (x : Reg) (s : State) : (State.loadRegs x s).pc = s.pc := rfl
@[simp] theorem State.loadRegs_stk (x : Reg) (s : State) : (State.loadRegs x s).stk = s.stk := rfl
@[simp] theorem State.loadRegs_sp (x : Reg) (s : State) : (State.loadRegs x s).sp = s.sp := rfl
@[simp] theorem State.loadRegs_dt (x : Reg) (s : State) : (State.loadRegs x s).dt = s.dt := rfl
@[simp] theorem State.loadRegs_st (x : Reg) (s : State) : (State.loadRegs x s).st = s.st := rfl
@[simp] theorem State.loadRegs_fb (x : Reg) (s : State) : (State.loadRegs x s).fb = s.fb := rfl
@[simp] theorem State.loadRegs_mem (x : Reg) (s : State) : (State.loadRegs x s).mem = s.mem := rfl
@[simp] theorem State.loadRegs_status (x : Reg) (s : State) : (State.loadRegs x s).status = s.status := rfl
@[simp] theorem State.loadRegs_log (x : Reg) (s : State) : (State.loadRegs x s).log = s.log := rfl
@[simp] theorem State.loadRegs_hid (x : Reg) (s : State) : (State.loadRegs x s).hid = s.hid := rfl
@[simp] theorem State.loadRegs_env (x : Reg) (s : State) : (State.loadRegs x s).env = s.env := rfl

/-! ### push -/

@[simp] theorem State.push_cfg (a : Word) (s : State) : (State.push a s).cfg = s.cfg := rfl
@[simp] theorem State.push_v (a : Word) (s : State) : (State.push a s).v = s.v := rfl
@[simp] theorem State.push_idx (a : Word) (s : State) : (State.push a s).idx = s.idx := rfl
@[simp] theorem State.push_pc (a : Word) (s : State) : (State.push a s).pc = s.pc := rfl
@[simp] theorem State.push_stk (a : Word) (s : State) : (State.push a s).stk = s.stk.setIfInBounds s.sp.val a := rfl
@[simp] theorem State.push_sp (a : Word) (s : State) : (State.push a s).sp = Fin.ofNat 17 (s.sp.val + 1) := rfl
@[simp] theorem State.push_dt (a : Word) (s : State) : (State.push a s).dt = s.dt := rfl
@[simp] theorem State.push_st (a : Word) (s : State) : (State.push a s).st = s.st := rfl
@[simp] theorem State.push_fb (a : Word) (s : State) : (State.push a s).fb = s.fb := rfl
@[simp] theorem State.push_mem (a : Word) (s : State) : (State.push a s).mem = s.mem := rfl
@[simp] theorem State.push_status (a : Word) (s : State) : (State.push a s).status = s.status := rfl
@[simp] theorem State.push_log (a : Word) (s : State) : (State.push a s).log = s.log := rfl
@[simp] theorem State.push_hid (a : Word) (s : State) : (State.push a s).hid = s.hid := rfl
@[simp] theorem State.push_env (a : Word) (s : State) : (State.push a s).env = s.env := rfl

/-! ### dropTop -/

@[simp] theorem State.dropTop_cfg (s : State) : (State.dropTop s).cfg = s.cfg := rfl
@[simp] theorem State.dropTop_v (s : State) : (State.dropTop s).v = s.v := rfl
@[simp] theorem State.dropTop_idx (s : State) : (State.dropTop s).idx = s.idx := rfl
@[simp] theorem State.dropTop_pc (s : State) : (State.dropTop s).pc = s.pc := rfl
@[simp] theorem State.dropTop_stk (s : State) : (State.dropTop s).stk = s.stk := rfl
@[simp] theorem State.dropTop_sp (s : State) : (State.dropTop s).sp = Fin.ofNat 17 (s.sp.val - 1) := rfl
@[simp] theorem State.dropTop_dt (s : State) : (State.dropTop s).dt = s.dt := rfl
@[simp] theorem State.dropTop_st (s : State) : (State.dropTop s).st = s.st := rfl
@[simp] theorem State.dropTop_fb (s : State) : (State.dropTop s).fb = s.fb := rfl
@[simp] theorem State.dropTop_mem (s : State) : (State.dropTop s).mem = s.mem := rfl
@[simp] theorem State.dropTop_status (s : State) : (State.dropTop s).status = s.status := rfl
@[simp] theorem State.dropTop_log (s : State) : (State.dropTop s).log = s.log := rfl
@[simp] theorem State.dropTop_hid (s : State) : (State.dropTop s).hid = s.hid := rfl
@[simp] theorem State.dropTop_env (s : State) : (State.dropTop s).env = s.env := rfl

/-! ### skipIf -/

@[simp] theorem State.skipIf_cfg (c : Bool) (s : State) : (State.skipIf c s).cfg = s.cfg := rfl
@[simp] theorem State.skipIf_v (c : Bool) (s : State) : (State.skipIf c s).v = s.v := rfl
@[simp] theorem State.skipIf_idx (c : Bool) (s : State) : (State.skipIf c s).idx = s.idx := rfl
@[simp] theorem State.skipIf_pc (c : Bool) (s : State) : (State.skipIf c s).pc = if c then s.pc + 2 else s.pc := rfl
@[simp] theorem State.skipIf_stk (c : Bool) (s : State) : (State.skipIf c s).stk = s.stk := rfl
@[simp] theorem State.skipIf_sp (c : Bool) (s : State) : (State.skipIf c s).sp = s.sp := rfl
@[simp] theorem State.skipIf_dt (c : Bool) (s : State) : (State.skipIf c s).dt = s.dt := rfl
@[simp] theorem State.skipIf_st (c : Bool) (s : State) : (State.skipIf c s).st = s.st := rfl
@[simp] theorem State.skipIf_fb (c : Bool) (s : State) : (State.skipIf c s).fb = s.fb := rfl
@[simp] theorem State.skipIf_mem (c : Bool) (s : State) : (State.skipIf c s).mem = s.mem := rfl
@[simp] theorem State.skipIf_status (c : Bool) (s : State) : (State.skipIf c s).status = s.status := rfl
@[simp] theorem State.skipIf_log (c : Bool) (s : State) : (State.skipIf c s).log = s.log := rfl
@[simp] theorem State.skipIf_hid (c : Bool) (s : State) : (State.skipIf c s).hid = s.hid := rfl
@[simp] theorem State.skipIf_env (c : Bool) (s : State) : (State.skipIf c s).env = s.env := rfl

/-! ### takeKeys -/

@[simp] theorem State.takeKeys_cfg (s : State) : (State.takeKeys s).cfg = s.cfg := rfl
@[simp] theorem State.takeKeys_v (s : State) : (State.takeKeys s).v = s.v := rfl
@[simp] theorem State.takeKeys_idx (s : State) : (State.takeKeys s).idx = s.idx := rfl
@[simp] theorem State.takeKeys_pc (s : State) : (State.takeKeys s).pc = s.pc := rfl
@[simp] theorem State.takeKeys_stk (s : State) : (State.takeKeys s).stk = s.stk := rfl
@[simp] theorem State.takeKeys_sp (s : State) : (State.takeKeys s).sp = s.sp := rfl
@[simp] theorem State.takeKeys_dt (s : State) : (State.takeKeys s).dt = s.dt := rfl
@[simp] theorem State.takeKeys_st (s : State) : (State.takeKeys s).st = s.st := rfl
@[simp] theorem State.takeKeys_fb (s : State) : (State.takeKeys s).fb = s.fb := rfl
@[simp] theorem State.takeKeys_mem (s : State) : (State.takeKeys s).mem = s.mem := rfl
@[simp] theorem State.takeKeys_status (s : State) : (State.takeKeys s).status = s.status := rfl
@[simp] theorem State.takeKeys_log (s : State) : (State.takeKeys s).log = s.log := rfl
@[simp] theorem State.takeKeys_hid (s : State) : (State.takeKeys s).hid = s.hid := rfl
@[simp] theorem State.takeKeys_env (s : State) :
    (State.takeKeys s).env = { s.env with keys := s.env.keys.tail, draws := s.env.draws + 1 } := rfl

/-! ### takeRnd -/

@[simp] theorem State.takeRnd_cfg (s : State) : (State.takeRnd s).cfg = s.cfg := rfl
@[simp] theorem State.takeRnd_v (s : State) : (State.takeRnd s).v = s.v := rfl
@[simp] theorem State.takeRnd_idx (s : State) : (State.takeRnd s).idx = s.idx := rfl
@[simp] theorem State.takeRnd_pc (s : State) : (State.takeRnd s).pc = s.pc := rfl
@[simp] theorem State.takeRnd_stk (s : State) : (State.takeRnd s).stk = s.stk := rfl
@[simp] theorem State.takeRnd_sp (s : State) : (State.takeRnd s).sp = s.sp := rfl
@[simp] theorem State.takeRnd_dt (s : State) : (State.takeRnd s).dt = s.dt := rfl
@[simp] theorem State.takeRnd_st (s : State) : (State.takeRnd s).st = s.st := rfl
@[simp] theorem State.takeRnd_fb (s : State) : (State.takeRnd s).fb = s.fb := rfl
@[simp] theorem State.takeRnd_mem (s : State) : (State.takeRnd s).mem = s.mem := rfl
@[simp] theorem State.takeRnd_status (s : State) : (State.takeRnd s).status = s.status := rfl
@[simp] theorem State.takeRnd_log (s : State) : (State.takeRnd s).log = s.log := rfl
@[simp] theorem State.takeRnd_hid (s : State) : (State.takeRnd s).hid = s.hid := rfl
@[simp] theorem State.takeRnd_env (s : State) :
    (State.takeRnd s).env = { s.env with rnd := s.env.rnd.tail, draws := s.env.draws + 1 } := rfl

/-! ### report -/

@[simp] theorem State.report_cfg (r : Status) (s : State) : (State.report r s).cfg = s.cfg := rfl
@[simp] theorem State.report_v (r : Status) (s : State) : (State.report r s).v = s.v := rfl
@[simp] theorem State.report_idx (r : Status) (s : State) : (State.report r s).idx = s.idx := rfl
@[simp] theorem State.report_pc (r : Status) (s : State) : (State.report r s).pc = s.pc := rfl
@[simp] theorem State.report_stk (r : Status) (s : State) : (State.report r s).stk = s.stk := rfl
@[simp] theorem State.report_sp (r : Status) (s : State) : (State.report r s).sp = s.sp := rfl
@[simp] theorem State.report_dt (r : Status) (s : State) : (State.report r s).dt = s.dt := rfl
@[simp] theorem State.report_st (r : Status) (s : State) : (State.report r s).st = s.st := rfl
@[simp] theorem State.report_fb (r : Status) (s : State) : (State.report r s).fb = s.fb := rfl
@[simp] theorem State.report_mem (r : Status) (s : State) : (State.report r s).mem = s.mem := rfl
@[simp] theorem State.report_status (r : Status) (s : State) : (State.report r s).status = r := rfl
@[simp] theorem State.report_log (r : Status) (s : State) : (State.report r s).log = r :: s.log := rfl
@[simp] theorem State.report_hid (r : Status) (s : State) : (State.report r s).hid = s.hid := rfl
@[simp] theorem State.report_env (r : Status) (s : State) : (State.report r s).env = s.env := rfl

/-! ### raise -/

@[simp] theorem State.raise_cfg (c : Code) (ea : Nat) (s : State) : (State.raise c ea s).cfg = s.cfg := rfl
@[simp] theorem State.raise_v (c : Code) (ea : Nat) (s : State) : (State.raise c ea s).v = s.v := rfl
@[simp] theorem State.raise_idx (c : Code) (ea : Nat) (s : State) : (State.raise c ea s).idx = s.idx := rfl
@[simp] theorem State.raise_pc (c : Code) (ea : Nat) (s : State) : (State.raise c ea s).pc = s.hid.pcInsn := rfl
@[simp] theorem State.raise_stk (c : Code) (ea : Nat) (s : State) : (State.raise c ea s).stk = s.stk := rfl
@[simp] theorem State.raise_sp (c : Code) (ea : Nat) (s : State) : (State.raise c ea s).sp = s.sp := rfl
@[simp] theorem State.raise_dt (c : Code) (ea : Nat) (s : State) : (State.raise c ea s).dt = s.dt := rfl
@[simp] theorem State.raise_st (c : Code) (ea : Nat) (s : State) : (State.raise c ea s).st = s.st := rfl
@[simp] theorem State.raise_fb (c : Code) (ea : Nat) (s : State) : (State.raise c ea s).fb = s.fb := rfl
@[simp] theorem State.raise_mem (c : Code) (ea : Nat) (s : State) : (State.raise c ea s).mem = s.mem := rfl
@[simp] theorem State.raise_status (c : Code) (ea : Nat) (s : State) :
    (State.raise c ea s).status = { code := c, word := s.hid.ir, pc := s.hid.pcInsn, ea := BitVec.ofNat 17 ea } := rfl
@[simp] theorem State.raise_log (c : Code) (ea : Nat) (s : State) :
    (State.raise c ea s).log = { code := c, word := s.hid.ir, pc := s.hid.pcInsn, ea := BitVec.ofNat 17 ea } :: s.log := rfl
@[simp] theorem State.raise_hid (c : Code) (ea : Nat) (s : State) : (State.raise c ea s).hid = s.hid := rfl
@[simp] theorem State.raise_env (c : Code) (ea : Nat) (s : State) : (State.raise c ea s).env = s.env := rfl

/-! ### commitOk -/

@[simp] theorem State.commitOk_cfg (s : State) : (State.commitOk s).cfg = s.cfg := rfl
@[simp] theorem State.commitOk_v (s : State) : (State.commitOk s).v = s.v := rfl
@[simp] theorem State.commitOk_idx (s : State) : (State.commitOk s).idx = s.idx := rfl
@[simp] theorem State.commitOk_pc (s : State) : (State.commitOk s).pc = s.pc := rfl
@[simp] theorem State.commitOk_stk (s : State) : (State.commitOk s).stk = s.stk := rfl
@[simp] theorem State.commitOk_sp (s : State) : (State.commitOk s).sp = s.sp := rfl
@[simp] theorem State.commitOk_dt (s : State) : (State.commitOk s).dt = s.dt := rfl
@[simp] theorem State.commitOk_st (s : State) : (State.commitOk s).st = s.st := rfl
@[simp] theorem State.commitOk_fb (s : State) : (State.commitOk s).fb = s.fb := rfl
@[simp] theorem State.commitOk_mem (s : State) : (State.commitOk s).mem = s.mem := rfl
@[simp] theorem State.commitOk_status (s : State) :
    (State.commitOk s).status = { code := .ok, word := s.hid.ir, pc := s.hid.pcInsn, ea := 0 } := rfl
@[simp] theorem State.commitOk_log (s : State) : (State.commitOk s).log = s.log := rfl
@[simp] theorem State.commitOk_hid (s : State) : (State.commitOk s).hid = s.hid := rfl
@[simp] theorem State.commitOk_env (s : State) : (State.commitOk s).env = s.env := rfl

/-! ### unrecognized -/

@[simp] theorem State.unrecognized_cfg (s : State) : (State.unrecognized s).cfg = s.cfg := rfl
@[simp] theorem State.unrecognized_v (s : State) : (State.unrecognized s).v = s.v := rfl
@[simp] theorem State.unrecognized_idx (s : State) : (State.unrecognized s).idx = s.idx := rfl
@[simp] theorem State.unrecognized_pc (s : State) : (State.unrecognized s).pc = s.pc := rfl
@[simp] theorem State.unrecognized_stk (s : State) : (State.unrecognized s).stk = s.stk := rfl
@[simp] theorem State.unrecognized_sp (s : State) : (State.unrecognized s).sp = s.sp := rfl
@[simp] theorem State.unrecognized_dt (s : State) : (State.unrecognized s).dt = s.dt := rfl
@[simp] theorem State.unrecognized_st (s : State) : (State.unrecognized s).st = s.st := rfl
@[simp] theorem State.unrecognized_fb (s : State) : (State.unrecognized s).fb = s.fb := rfl
@[simp] theorem State.unrecognized_mem (s : State) : (State.unrecognized s).mem = s.mem := rfl
@[simp] theorem State.unrecognized_status (s : State) :
    (State.unrecognized s).status = { code := .unrecognizedOpcode, word := s.hid.ir, pc := s.hid.pcInsn, ea := 0 } := rfl
@[simp] theorem State.unrecognized_log (s : State) :
    (State.unrecognized s).log = { code := .unrecognizedOpcode, word := s.hid.ir, pc := s.hid.pcInsn, ea := 0 } :: s.log := rfl
@[simp] theorem State.unrecognized_hid (s : State) : (State.unrecognized s).hid = s.hid := rfl
@[simp] theorem State.unrecognized_env (s : State) : (State.unrecognized s).env = s.env := rfl

/-! ### latch -/

@[simp] theorem State.latch_cfg (w : Word) (s : State) : (State.latch w s).cfg = s.cfg := rfl
@[simp] theorem State.latch_v (w : Word) (s : State) : (State.latch w s).v = s.v := rfl
@[simp] theorem State.latch_idx (w : Word) (s : State) : (State.latch w s).idx = s.idx := rfl
@[simp] theorem State.latch_pc (w : Word) (s : State) : (State.latch w s).pc = s.pc + 2 := rfl
@[simp] theorem State.latch_stk (w : Word) (s : State) : (State.latch w s).stk = s.stk := rfl
@[simp] theorem State.latch_sp (w : Word) (s : State) : (State.latch w s).sp = s.sp := rfl
@[simp] theorem State.latch_dt (w : Word) (s : State) : (State.latch w s).dt = s.dt := rfl
@[simp] theorem State.latch_st (w : Word) (s : State) : (State.latch w s).st = s.st := rfl
@[simp] theorem State.latch_fb (w : Word) (s : State) : (State.latch w s).fb = s.fb := rfl
@[simp] theorem State.latch_mem (w : Word) (s : State) : (State.latch w s).mem = s.mem := rfl
@[simp] theorem State.latch_status (w : Word) (s : State) : (State.latch w s).status = s.status := rfl
@[simp] theorem State.latch_log (w : Word) (s : State) : (State.latch w s).log = s.log := rfl
@[simp] theorem State.latch_hid (w : Word) (s : State) :
    (State.latch w s).hid = { s.hid with ir := w, pcInsn := s.pc } := rfl
@[simp] theorem State.latch_env (w : Word) (s : State) : (State.latch w s).env = s.env := rfl

/-! ### fetchFault -/

@[simp] theorem State.fetchFault_cfg (s : State) : (State.fetchFault s).cfg = s.cfg := rfl
@[simp] theorem State.fetchFault_v (s : State) : (State.fetchFault s).v = s.v := rfl
@[simp] theorem State.fetchFault_idx (s : State) : (State.fetchFault s).idx = s.idx := rfl
@[simp] theorem State.fetchFault_pc (s : State) : (State.fetchFault s).pc = s.pc := rfl
@[simp] theorem State.fetchFault_stk (s : State) : (State.fetchFault s).stk = s.stk := rfl
@[simp] theorem State.fetchFault_sp (s : State) : (State.fetchFault s).sp = s.sp := rfl
@[simp] theorem State.fetchFault_dt (s : State) : (State.fetchFault s).dt = s.dt := rfl
@[simp] theorem State.fetchFault_st (s : State) : (State.fetchFault s).st = s.st := rfl
@[simp] theorem State.fetchFault_fb (s : State) : (State.fetchFault s).fb = s.fb := rfl
@[simp] theorem State.fetchFault_mem (s : State) : (State.fetchFault s).mem = s.mem := rfl
@[simp] theorem State.fetchFault_status (s : State) :
    (State.fetchFault s).status = { code := .fetchOutOfBounds, word := 0, pc := s.pc, ea := BitVec.ofNat 17 (max s.pc.toNat 0x1000) } := rfl
@[simp] theorem State.fetchFault_log (s : State) :
    (State.fetchFault s).log = { code := .fetchOutOfBounds, word := 0, pc := s.pc, ea := BitVec.ofNat 17 (max s.pc.toNat 0x1000) } :: s.log := rfl
@[simp] theorem State.fetchFault_hid (s : State) : (State.fetchFault s).hid = { s.hid with ir := 0, pcInsn := s.pc } := rfl
@[simp] theorem State.fetchFault_env (s : State) : (State.fetchFault s).env = s.env := rfl

/-! ### writeResultFlag -/

@[simp] theorem State.writeResultFlag_cfg (x : Reg) (r f : Byte) (s : State) :
    (State.writeResultFlag x r f s).cfg = s.cfg := rfl
@[simp] theorem State.writeResultFlag_v (x : Reg) (r f : Byte) (s : State) :
    (State.writeResultFlag x r f s).v = (s.v.set x r).set vf f := rfl
@[simp] theorem State.writeResultFlag_idx (x : Reg) (r f : Byte) (s : State) :
    (State.writeResultFlag x r f s).idx = s.idx := rfl
@[simp] theorem State.writeResultFlag_pc (x : Reg) (r f : Byte) (s : State) :
    (State.writeResultFlag x r f s).pc = s.pc := rfl
@[simp] theorem State.writeResultFlag_stk (x : Reg) (r f : Byte) (s : State) :
    (State.writeResultFlag x r f s).stk = s.stk := rfl
@[simp] theorem State.writeResultFlag_sp (x : Reg) (r f : Byte) (s : State) :
    (State.writeResultFlag x r f s).sp = s.sp := rfl
@[simp] theorem State.writeResultFlag_dt (x : Reg) (r f : Byte) (s : State) :
    (State.writeResultFlag x r f s).dt = s.dt := rfl
@[simp] theorem State.writeResultFlag_st (x : Reg) (r f : Byte) (s : State) :
    (State.writeResultFlag x r f s).st = s.st := rfl
@[simp] theorem State.writeResultFlag_fb (x : Reg) (r f : Byte) (s : State) :
    (State.writeResultFlag x r f s).fb = s.fb := rfl
@[simp] theorem State.writeResultFlag_mem (x : Reg) (r f : Byte) (s : State) :
    (State.writeResultFlag x r f s).mem = s.mem := rfl
@[simp] theorem State.writeResultFlag_status (x : Reg) (r f : Byte) (s : State) :
    (State.writeResultFlag x r f s).status = s.status := rfl
@[simp] theorem State.writeResultFlag_log (x : Reg) (r f : Byte) (s : State) :
    (State.writeResultFlag x r f s).log = s.log := rfl
@[simp] theorem State.writeResultFlag_hid (x : Reg) (r f : Byte) (s : State) :
    (State.writeResultFlag x r f s).hid = s.hid := rfl
@[simp] theorem State.writeResultFlag_env (x : Reg) (r f : Byte) (s : State) :
    (State.writeResultFlag x r f s).env = s.env := rfl

/-! ### tick -/

@[simp] theorem State.tick_cfg (s : State) : (State.tick s).cfg = s.cfg := rfl
@[simp] theorem State.tick_v (s : State) : (State.tick s).v = s.v := rfl
@[simp] theorem State.tick_idx (s : State) : (State.tick s).idx = s.idx := rfl
@[simp] theorem State.tick_pc (s : State) : (State.tick s).pc = s.pc := rfl
@[simp] theorem State.tick_stk (s : State) : (State.tick s).stk = s.stk := rfl
@[simp] theorem State.tick_sp (s : State) : (State.tick s).sp = s.sp := rfl
@[simp] theorem State.tick_dt (s : State) : (State.tick s).dt = tickCounter s.dt := rfl
@[simp] theorem State.tick_st (s : State) : (State.tick s).st = tickCounter s.st := rfl
@[simp] theorem State.tick_fb (s : State) : (State.tick s).fb = s.fb := rfl
@[simp] theorem State.tick_mem (s : State) : (State.tick s).mem = s.mem := rfl
@[simp] theorem State.tick_status (s : State) : (State.tick s).status = s.status := rfl
@[simp] theorem State.tick_log (s : State) : (State.tick s).log = s.log := rfl
@[simp] theorem State.tick_hid (s : State) : (State.tick s).hid = s.hid := rfl
@[simp] theorem State.tick_env (s : State) : (State.tick s).env = s.env := rfl

/-! ### supplyKeys -/

@[simp] theorem State.supplyKeys_cfg (k : BitVec 16) (s : State) : (State.supplyKeys k s).cfg = s.cfg := rfl
@[simp] theorem State.supplyKeys_v (k : BitVec 16) (s : State) : (State.supplyKeys k s).v = s.v := rfl
@[simp] theorem State.supplyKeys_idx (k : BitVec 16) (s : State) : (State.supplyKeys k s).idx = s.idx := rfl
@[simp] theorem State.supplyKeys_pc (k : BitVec 16) (s : State) : (State.supplyKeys k s).pc = s.pc := rfl
@[simp] theorem State.supplyKeys_stk (k : BitVec 16) (s : State) : (State.supplyKeys k s).stk = s.stk := rfl
@[simp] theorem State.supplyKeys_sp (k : BitVec 16) (s : State) : (State.supplyKeys k s).sp = s.sp := rfl
@[simp] theorem State.supplyKeys_dt (k : BitVec 16) (s : State) : (State.supplyKeys k s).dt = s.dt := rfl
@[simp] theorem State.supplyKeys_st (k : BitVec 16) (s : State) : (State.supplyKeys k s).st = s.st := rfl
@[simp] theorem State.supplyKeys_fb (k : BitVec 16) (s : State) : (State.supplyKeys k s).fb = s.fb := rfl
@[simp] theorem State.supplyKeys_mem (k : BitVec 16) (s : State) : (State.supplyKeys k s).mem = s.mem := rfl
@[simp] theorem State.supplyKeys_status (k : BitVec 16) (s : State) : (State.supplyKeys k s).status = s.status := rfl
@[simp] theorem State.supplyKeys_log (k : BitVec 16) (s : State) : (State.supplyKeys k s).log = s.log := rfl
@[simp] theorem State.supplyKeys_hid (k : BitVec 16) (s : State) : (State.supplyKeys k s).hid = s.hid := rfl
@[simp] theorem State.supplyKeys_env (k : BitVec 16) (s : State) :
    (State.supplyKeys k s).env = { s.env with keys := s.env.keys ++ [k] } := rfl

/-! ### supplyRnd -/

@[simp] theorem State.supplyRnd_cfg (r : Byte) (s : State) : (State.supplyRnd r s).cfg = s.cfg := rfl
@[simp] theorem State.supplyRnd_v (r : Byte) (s : State) : (State.supplyRnd r s).v = s.v := rfl
@[simp] theorem State.supplyRnd_idx (r : Byte) (s : State) : (State.supplyRnd r s).idx = s.idx := rfl
@[simp] theorem State.supplyRnd_pc (r : Byte) (s : State) : (State.supplyRnd r s).pc = s.pc := rfl
@[simp] theorem State.supplyRnd_stk (r : Byte) (s : State) : (State.supplyRnd r s).stk = s.stk := rfl
@[simp] theorem State.supplyRnd_sp (r : Byte) (s : State) : (State.supplyRnd r s).sp = s.sp := rfl
@[simp] theorem State.supplyRnd_dt (r : Byte) (s : State) : (State.supplyRnd r s).dt = s.dt := rfl
@[simp] theorem State.supplyRnd_st (r : Byte) (s : State) : (State.supplyRnd r s).st = s.st := rfl
@[simp] theorem State.supplyRnd_fb (r : Byte) (s : State) : (State.supplyRnd r s).fb = s.fb := rfl
@[simp] theorem State.supplyRnd_mem (r : Byte) (s : State) : (State.supplyRnd r s).mem = s.mem := rfl
@[simp] theorem State.supplyRnd_status (r : Byte) (s : State) : (State.supplyRnd r s).status = s.status := rfl
@[simp] theorem State.supplyRnd_log (r : Byte) (s : State) : (State.supplyRnd r s).log = s.log := rfl
@[simp] theorem State.supplyRnd_hid (r : Byte) (s : State) : (State.supplyRnd r s).hid = s.hid := rfl
@[simp] theorem State.supplyRnd_env (r : Byte) (s : State) :
    (State.supplyRnd r s).env = { s.env with rnd := s.env.rnd ++ [r] } := rfl

/-! ### goto -/

@[simp] theorem State.goto_cfg (c : Ctl) (s : State) : (State.goto c s).cfg = s.cfg := rfl
@[simp] theorem State.goto_v (c : Ctl) (s : State) : (State.goto c s).v = s.v := rfl
@[simp] theorem State.goto_idx (c : Ctl) (s : State) : (State.goto c s).idx = s.idx := rfl
@[simp] theorem State.goto_pc (c : Ctl) (s : State) : (State.goto c s).pc = s.pc := rfl
@[simp] theorem State.goto_stk (c : Ctl) (s : State) : (State.goto c s).stk = s.stk := rfl
@[simp] theorem State.goto_sp (c : Ctl) (s : State) : (State.goto c s).sp = s.sp := rfl
@[simp] theorem State.goto_dt (c : Ctl) (s : State) : (State.goto c s).dt = s.dt := rfl
@[simp] theorem State.goto_st (c : Ctl) (s : State) : (State.goto c s).st = s.st := rfl
@[simp] theorem State.goto_fb (c : Ctl) (s : State) : (State.goto c s).fb = s.fb := rfl
@[simp] theorem State.goto_mem (c : Ctl) (s : State) : (State.goto c s).mem = s.mem := rfl
@[simp] theorem State.goto_status (c : Ctl) (s : State) : (State.goto c s).status = s.status := rfl
@[simp] theorem State.goto_log (c : Ctl) (s : State) : (State.goto c s).log = s.log := rfl
@[simp] theorem State.goto_hid (c : Ctl) (s : State) : (State.goto c s).hid = { s.hid with ctl := c } := rfl
@[simp] theorem State.goto_env (c : Ctl) (s : State) : (State.goto c s).env = s.env := rfl

/-! ### setIdx -/

@[simp] theorem State.setIdx_cfg (a : Word) (s : State) : (State.setIdx a s).cfg = s.cfg := rfl
@[simp] theorem State.setIdx_v (a : Word) (s : State) : (State.setIdx a s).v = s.v := rfl
@[simp] theorem State.setIdx_idx (a : Word) (s : State) : (State.setIdx a s).idx = a := rfl
@[simp] theorem State.setIdx_pc (a : Word) (s : State) : (State.setIdx a s).pc = s.pc := rfl
@[simp] theorem State.setIdx_stk (a : Word) (s : State) : (State.setIdx a s).stk = s.stk := rfl
@[simp] theorem State.setIdx_sp (a : Word) (s : State) : (State.setIdx a s).sp = s.sp := rfl
@[simp] theorem State.setIdx_dt (a : Word) (s : State) : (State.setIdx a s).dt = s.dt := rfl
@[simp] theorem State.setIdx_st (a : Word) (s : State) : (State.setIdx a s).st = s.st := rfl
@[simp] theorem State.setIdx_fb (a : Word) (s : State) : (State.setIdx a s).fb = s.fb := rfl
@[simp] theorem State.setIdx_mem (a : Word) (s : State) : (State.setIdx a s).mem = s.mem := rfl
@[simp] theorem State.setIdx_status (a : Word) (s : State) : (State.setIdx a s).status = s.status := rfl
@[simp] theorem State.setIdx_log (a : Word) (s : State) : (State.setIdx a s).log = s.log := rfl
@[simp] theorem State.setIdx_hid (a : Word) (s : State) : (State.setIdx a s).hid = s.hid := rfl
@[simp] theorem State.setIdx_env (a : Word) (s : State) : (State.setIdx a s).env = s.env := rfl

/-! ### setPc -/

@[simp] theorem State.setPc_cfg (a : Word) (s : State) : (State.setPc a s).cfg = s.cfg := rfl
@[simp] theorem State.setPc_v (a : Word) (s : State) : (State.setPc a s).v = s.v := rfl
@[simp] theorem State.setPc_idx (a : Word) (s : State) : (State.setPc a s).idx = s.idx := rfl
@[simp] theorem State.setPc_pc (a : Word) (s : State) : (State.setPc a s).pc = a := rfl
@[simp] theorem State.setPc_stk (a : Word) (s : State) : (State.setPc a s).stk = s.stk := rfl
@[simp] theorem State.setPc_sp (a : Word) (s : State) : (State.setPc a s).sp = s.sp := rfl
@[simp] theorem State.setPc_dt (a : Word) (s : State) : (State.setPc a s).dt = s.dt := rfl
@[simp] theorem State.setPc_st (a : Word) (s : State) : (State.setPc a s).st = s.st := rfl
@[simp] theorem State.setPc_fb (a : Word) (s : State) : (State.setPc a s).fb = s.fb := rfl
@[simp] theorem State.setPc_mem (a : Word) (s : State) : (State.setPc a s).mem = s.mem := rfl
@[simp] theorem State.setPc_status (a : Word) (s : State) : (State.setPc a s).status = s.status := rfl
@[simp] theorem State.setPc_log (a : Word) (s : State) : (State.setPc a s).log = s.log := rfl
@[simp] theorem State.setPc_hid (a : Word) (s : State) : (State.setPc a s).hid = s.hid := rfl
@[simp] theorem State.setPc_env (a : Word) (s : State) : (State.setPc a s).env = s.env := rfl

/-! ### setDT -/

@[simp] theorem State.setDT_cfg (a : Byte) (s : State) : (State.setDT a s).cfg = s.cfg := rfl
@[simp] theorem State.setDT_v (a : Byte) (s : State) : (State.setDT a s).v = s.v := rfl
@[simp] theorem State.setDT_idx (a : Byte) (s : State) : (State.setDT a s).idx = s.idx := rfl
@[simp] theorem State.setDT_pc (a : Byte) (s : State) : (State.setDT a s).pc = s.pc := rfl
@[simp] theorem State.setDT_stk (a : Byte) (s : State) : (State.setDT a s).stk = s.stk := rfl
@[simp] theorem State.setDT_sp (a : Byte) (s : State) : (State.setDT a s).sp = s.sp := rfl
@[simp] theorem State.setDT_dt (a : Byte) (s : State) : (State.setDT a s).dt = a := rfl
@[simp] theorem State.setDT_st (a : Byte) (s : State) : (State.setDT a s).st = s.st := rfl
@[simp] theorem State.setDT_fb (a : Byte) (s : State) : (State.setDT a s).fb = s.fb := rfl
@[simp] theorem State.setDT_mem (a : Byte) (s : State) : (State.setDT a s).mem = s.mem := rfl
@[simp] theorem State.setDT_status (a : Byte) (s : State) : (State.setDT a s).status = s.status := rfl
@[simp] theorem State.setDT_log (a : Byte) (s : State) : (State.setDT a s).log = s.log := rfl
@[simp] theorem State.setDT_hid (a : Byte) (s : State) : (State.setDT a s).hid = s.hid := rfl
@[simp] theorem State.setDT_env (a : Byte) (s : State) : (State.setDT a s).env = s.env := rfl

/-! ### setST -/

@[simp] theorem State.setST_cfg (a : Byte) (s : State) : (State.setST a s).cfg = s.cfg := rfl
@[simp] theorem State.setST_v (a : Byte) (s : State) : (State.setST a s).v = s.v := rfl
@[simp] theorem State.setST_idx (a : Byte) (s : State) : (State.setST a s).idx = s.idx := rfl
@[simp] theorem State.setST_pc (a : Byte) (s : State) : (State.setST a s).pc = s.pc := rfl
@[simp] theorem State.setST_stk (a : Byte) (s : State) : (State.setST a s).stk = s.stk := rfl
@[simp] theorem State.setST_sp (a : Byte) (s : State) : (State.setST a s).sp = s.sp := rfl
@[simp] theorem State.setST_dt (a : Byte) (s : State) : (State.setST a s).dt = s.dt := rfl
@[simp] theorem State.setST_st (a : Byte) (s : State) : (State.setST a s).st = a := rfl
@[simp] theorem State.setST_fb (a : Byte) (s : State) : (State.setST a s).fb = s.fb := rfl
@[simp] theorem State.setST_mem (a : Byte) (s : State) : (State.setST a s).mem = s.mem := rfl
@[simp] theorem State.setST_status (a : Byte) (s : State) : (State.setST a s).status = s.status := rfl
@[simp] theorem State.setST_log (a : Byte) (s : State) : (State.setST a s).log = s.log := rfl
@[simp] theorem State.setST_hid (a : Byte) (s : State) : (State.setST a s).hid = s.hid := rfl
@[simp] theorem State.setST_env (a : Byte) (s : State) : (State.setST a s).env = s.env := rfl

/-! ### setFb -/

@[simp] theorem State.setFb_cfg (a : Fb) (s : State) : (State.setFb a s).cfg = s.cfg := rfl
@[simp] theorem State.setFb_v (a : Fb) (s : State) : (State.setFb a s).v = s.v := rfl
@[simp] theorem State.setFb_idx (a : Fb) (s : State) : (State.setFb a s).idx = s.idx := rfl
@[simp] theorem State.setFb_pc (a : Fb) (s : State) : (State.setFb a s).pc = s.pc := rfl
@[simp] theorem State.setFb_stk (a : Fb) (s : State) : (State.setFb a s).stk = s.stk := rfl
@[simp] theorem State.setFb_sp (a : Fb) (s : State) : (State.setFb a s).sp = s.sp := rfl
@[simp] theorem State.setFb_dt (a : Fb) (s : State) : (State.setFb a s).dt = s.dt := rfl
@[simp] theorem State.setFb_st (a : Fb) (s : State) : (State.setFb a s).st = s.st := rfl
@[simp] theorem State.setFb_fb (a : Fb) (s : State) : (State.setFb a s).fb = a := rfl
@[simp] theorem State.setFb_mem (a : Fb) (s : State) : (State.setFb a s).mem = s.mem := rfl
@[simp] theorem State.setFb_status (a : Fb) (s : State) : (State.setFb a s).status = s.status := rfl
@[simp] theorem State.setFb_log (a : Fb) (s : State) : (State.setFb a s).log = s.log := rfl
@[simp] theorem State.setFb_hid (a : Fb) (s : State) : (State.setFb a s).hid = s.hid := rfl
@[simp] theorem State.setFb_env (a : Fb) (s : State) : (State.setFb a s).env = s.env := rfl

/-! ### drawn -/

@[simp] theorem State.drawn_cfg (k : Canvas) (s : State) : (State.drawn k s).cfg = s.cfg := rfl
@[simp] theorem State.drawn_v (k : Canvas) (s : State) : (State.drawn k s).v = s.v.set vf (collisionFlag k.coll) := rfl
@[simp] theorem State.drawn_idx (k : Canvas) (s : State) : (State.drawn k s).idx = s.idx := rfl
@[simp] theorem State.drawn_pc (k : Canvas) (s : State) : (State.drawn k s).pc = s.pc := rfl
@[simp] theorem State.drawn_stk (k : Canvas) (s : State) : (State.drawn k s).stk = s.stk := rfl
@[simp] theorem State.drawn_sp (k : Canvas) (s : State) : (State.drawn k s).sp = s.sp := rfl
@[simp] theorem State.drawn_dt (k : Canvas) (s : State) : (State.drawn k s).dt = s.dt := rfl
@[simp] theorem State.drawn_st (k : Canvas) (s : State) : (State.drawn k s).st = s.st := rfl
@[simp] theorem State.drawn_fb (k : Canvas) (s : State) : (State.drawn k s).fb = k.fb := rfl
@[simp] theorem State.drawn_mem (k : Canvas) (s : State) : (State.drawn k s).mem = s.mem := rfl
@[simp] theorem State.drawn_status (k : Canvas) (s : State) : (State.drawn k s).status = s.status := rfl
@[simp] theorem State.drawn_log (k : Canvas) (s : State) : (State.drawn k s).log = s.log := rfl
@[simp] theorem State.drawn_hid (k : Canvas) (s : State) : (State.drawn k s).hid = s.hid := rfl
@[simp] theorem State.drawn_env (k : Canvas) (s : State) : (State.drawn k s).env = s.env := rfl

/-! ### Reading a register after an update -/

@[simp] theorem State.readV_writeV (x r : Reg) (b : Byte) (s : State) :
    (s.writeV x b).readV r = if r = x then b else s.readV r := by
  simp only [State.readV, State.writeV, Vector.get_eq_getElem, Vector.getElem_set, Fin.ext_iff, eq_comm]

@[simp] theorem State.readV_loadRegs (x r : Reg) (s : State) :
    (s.loadRegs x).readV r = if r ≤ x then s.readByte (s.idx.toNat + r.val) else s.readV r := by
  simp [State.readV, State.loadRegs, Vector.get_eq_getElem]

/-- The result is lost when the destination is VF; the flag is VF's final value (R162). -/
@[simp] theorem State.readV_writeResultFlag (x r : Reg) (res flag : Byte) (s : State) :
    (s.writeResultFlag x res flag).readV r = if r = vf then flag else if r = x then res else s.readV r := by
  simp [State.writeResultFlag]

@[simp] theorem State.readV_commitOk (r : Reg) (s : State) : s.commitOk.readV r = s.readV r := rfl
@[simp] theorem State.readV_raise (r : Reg) (c : Code) (ea : Nat) (s : State) : (s.raise c ea).readV r = s.readV r := rfl
@[simp] theorem State.readV_skipIf (r : Reg) (c : Bool) (s : State) : (s.skipIf c).readV r = s.readV r := rfl
@[simp] theorem State.readV_setPc (r : Reg) (a : Word) (s : State) : (s.setPc a).readV r = s.readV r := rfl
@[simp] theorem State.readV_setIdx (r : Reg) (a : Word) (s : State) : (s.setIdx a).readV r = s.readV r := rfl
@[simp] theorem State.readV_setDT (r : Reg) (b : Byte) (s : State) : (s.setDT b).readV r = s.readV r := rfl
@[simp] theorem State.readV_setST (r : Reg) (b : Byte) (s : State) : (s.setST b).readV r = s.readV r := rfl
@[simp] theorem State.readV_setFb (r : Reg) (fb : Fb) (s : State) : (s.setFb fb).readV r = s.readV r := rfl
@[simp] theorem State.readV_push (r : Reg) (a : Word) (s : State) : (s.push a).readV r = s.readV r := rfl
@[simp] theorem State.readV_dropTop (r : Reg) (s : State) : s.dropTop.readV r = s.readV r := rfl
@[simp] theorem State.readV_takeKeys (r : Reg) (s : State) : s.takeKeys.readV r = s.readV r := rfl
@[simp] theorem State.readV_takeRnd (r : Reg) (s : State) : s.takeRnd.readV r = s.readV r := rfl
@[simp] theorem State.readV_drawn (r : Reg) (k : Canvas) (s : State) :
    (s.drawn k).readV r = if r = vf then collisionFlag k.coll else s.readV r := by
  simp [State.drawn]
@[simp] theorem State.readV_latch (r : Reg) (w : Word) (s : State) : (s.latch w).readV r = s.readV r := rfl
@[simp] theorem State.readV_writeBytes (r : Reg) (a : Nat) (bs : List Byte) (s : State) :
    (s.writeBytes a bs).readV r = s.readV r := rfl

/-! ### Reading a byte after an update that stores nothing -/

@[simp] theorem State.readByte_commitOk (a : Nat) (s : State) : s.commitOk.readByte a = s.readByte a := rfl
@[simp] theorem State.readByte_raise (a : Nat) (c : Code) (ea : Nat) (s : State) : (s.raise c ea).readByte a = s.readByte a := rfl
@[simp] theorem State.readByte_setPc (a : Nat) (b : Word) (s : State) : (s.setPc b).readByte a = s.readByte a := rfl
@[simp] theorem State.readByte_setIdx (a : Nat) (b : Word) (s : State) : (s.setIdx b).readByte a = s.readByte a := rfl
@[simp] theorem State.readByte_setDT (a : Nat) (b : Byte) (s : State) : (s.setDT b).readByte a = s.readByte a := rfl
@[simp] theorem State.readByte_setST (a : Nat) (b : Byte) (s : State) : (s.setST b).readByte a = s.readByte a := rfl
@[simp] theorem State.readByte_setFb (a : Nat) (fb : Fb) (s : State) : (s.setFb fb).readByte a = s.readByte a := rfl
@[simp] theorem State.readByte_push (a : Nat) (b : Word) (s : State) : (s.push b).readByte a = s.readByte a := rfl
@[simp] theorem State.readByte_dropTop (a : Nat) (s : State) : s.dropTop.readByte a = s.readByte a := rfl
@[simp] theorem State.readByte_skipIf (a : Nat) (c : Bool) (s : State) : (s.skipIf c).readByte a = s.readByte a := rfl
@[simp] theorem State.readByte_takeKeys (a : Nat) (s : State) : s.takeKeys.readByte a = s.readByte a := rfl
@[simp] theorem State.readByte_takeRnd (a : Nat) (s : State) : s.takeRnd.readByte a = s.readByte a := rfl
@[simp] theorem State.readByte_drawn (a : Nat) (k : Canvas) (s : State) : (s.drawn k).readByte a = s.readByte a := rfl
@[simp] theorem State.readByte_writeResultFlag (a : Nat) (x : Reg) (r f : Byte) (s : State) :
    (s.writeResultFlag x r f).readByte a = s.readByte a := rfl
@[simp] theorem State.readByte_latch (a : Nat) (w : Word) (s : State) : (s.latch w).readByte a = s.readByte a := rfl
@[simp] theorem State.readByte_writeV (a : Nat) (x : Reg) (b : Byte) (s : State) : (s.writeV x b).readByte a = s.readByte a := rfl
@[simp] theorem State.readByte_loadRegs (a : Nat) (x : Reg) (s : State) : (s.loadRegs x).readByte a = s.readByte a := rfl

/-- Two states with equal fields are equal. -/
theorem State.ext_fields {s t : State} (h : s.cfg = t.cfg ∧ s.v = t.v ∧ s.idx = t.idx ∧ s.pc = t.pc ∧ s.stk = t.stk ∧ s.sp = t.sp ∧
    s.dt = t.dt ∧ s.st = t.st ∧ s.fb = t.fb ∧ s.mem = t.mem ∧ s.status = t.status ∧ s.log = t.log ∧ s.hid = t.hid ∧ s.env = t.env) :
    s = t := by
  cases s; cases t; simpa using h

/-- Two register files that read alike are equal. -/
theorem regs_ext {v w : Vector Byte 16} (h : ∀ r : Reg, v.get r = w.get r) : v = w := by
  ext1 i hi
  exact h ⟨i, hi⟩

end Sys2Proof.Machine
end

