-- ==== Sys2Proof/Laws/Framebuffer.lean ====
section
/-! SUPPORT. The laws of the framebuffer: its cells after a row is set or a cell is flipped, and that equal cells are equal
framebuffers. -/

namespace Sys2Proof.Machine

theorem fbRow_eq_getElem (fb : Fb) {r : Nat} (h : r < 32) : fbRow fb r = fb[r] := by
  simp [fbRow, h]

theorem fbRow_of_ge (fb : Fb) {r : Nat} (h : 32 ≤ r) : fbRow fb r = 0 := by
  simp [fbRow, Vector.getElem?_eq_none h]

/-- Setting a row inside the grid changes that row only. -/
theorem fbRow_fbSetRow (fb : Fb) {r : Nat} (hr : r < 32) (row : BitVec 64) (q : Nat) :
    fbRow (fbSetRow fb r row) q = if q = r then row else fbRow fb q := by
  by_cases hq : q < 32
  · rw [fbRow_eq_getElem _ hq, fbRow_eq_getElem _ hq]
    simp only [fbSetRow, Vector.getElem_setIfInBounds, eq_comm]
  · rw [fbRow_of_ge _ (by omega), fbRow_of_ge _ (by omega), if_neg (by omega)]

/-- Setting a row outside the grid changes nothing. -/
theorem fbSetRow_of_ge (fb : Fb) {r : Nat} (hr : 32 ≤ r) (row : BitVec 64) : fbSetRow fb r row = fb := by
  ext1 i hi
  simp only [fbSetRow, Vector.getElem_setIfInBounds]
  rw [if_neg (by omega)]

@[simp] theorem fbRow_fbClear_cell (r : Nat) : fbRow (Vector.replicate 32 0) r = 0 := by
  unfold fbRow
  by_cases h : r < 32
  · simp [h]
  · simp [Vector.getElem?_eq_none (Nat.le_of_not_lt h)]

/-- A cell by its coordinates: bit `63 - px` of row `py`. -/
theorem fbAt_eq (fb : Fb) {px : Nat} (hx : px < 64) (py : Nat) : fbAt fb px py = (fbRow fb py).getLsbD (63 - px) := by
  unfold fbAt fbCell
  rw [show (py * 64 + px) / 64 = py by omega, show (py * 64 + px) % 64 = px by omega]

/-- Two framebuffers with equal cells are equal. -/
theorem fb_ext {f g : Fb} (h : ∀ px py, px < 64 → py < 32 → fbAt f px py = fbAt g px py) : f = g := by
  ext1 r hr
  apply BitVec.eq_of_getLsbD_eq
  intro i hi
  have := h (63 - i) r (by omega) hr
  rw [fbAt_eq _ (by omega), fbAt_eq _ (by omega), fbRow_eq_getElem _ hr, fbRow_eq_getElem _ hr] at this
  rwa [show 63 - (63 - i) = i by omega] at this

/-- Flipping a cell of the grid changes that cell only. -/
theorem fbAt_fbFlip (fb : Fb) {px py qx qy : Nat} (hx : px < 64) (hy : py < 32) (hqx : qx < 64) :
    fbAt (fbFlip fb (py * 64 + px)) qx qy = (fbAt fb qx qy ^^ decide (qx = px ∧ qy = py)) := by
  unfold fbFlip
  rw [show (py * 64 + px) / 64 = py by omega, show (py * 64 + px) % 64 = px by omega, fbAt_eq _ hqx, fbAt_eq _ hqx,
    fbRow_fbSetRow _ hy]
  by_cases h : qy = py
  · subst h
    simp only [if_pos, BitVec.getLsbD_xor, BitVec.getLsbD_twoPow, and_true]
    congr 1
    rw [decide_eq_true (show 63 - px < 64 by omega), Bool.true_and]
    exact decide_eq_decide.2 (by omega)
  · simp [h]

end Sys2Proof.Machine
end

