-- ==== Sys2Proof/Laws/Display.lean ====
section
/-! SUPPORT. What a draw does to the framebuffer and the collision flag (spec/44_display.md R211), said once for both forms of the
compositor's loop. -/

namespace Sys2Proof.Machine

/-- One set bit of a sprite: its cell, if it lies in the grid, is flipped. -/
theorem fbAt_plotCell (k : Canvas) (px py : Nat) {qx qy : Nat} (hqx : qx < 64) (hqy : qy < 32) :
    fbAt (plotCell px py k).fb qx qy = (fbAt k.fb qx qy ^^ decide (qx = px ∧ qy = py)) := by
  unfold plotCell
  split
  · rename_i h
    exact fbAt_fbFlip k.fb h.1 h.2 hqx
  · rename_i h
    have : ¬ (qx = px ∧ qy = py) := by rintro ⟨rfl, rfl⟩; exact h ⟨hqx, hqy⟩
    simp [this]

/-- One set bit of a sprite: it collides where its cell lies in the grid and was on. -/
theorem coll_plotCell (k : Canvas) (px py : Nat) :
    (plotCell px py k).coll = true ↔ k.coll = true ∨ (px < 64 ∧ py < 32 ∧ fbAt k.fb px py = true) := by
  unfold plotCell
  split
  · rename_i h
    simp [h.1, h.2]
  · rename_i h
    constructor
    · exact .inl
    · rintro (h' | ⟨h1, h2, -⟩)
      · exact h'
      · exact absurd ⟨h1, h2⟩ h

/-- The first `m` columns of a sprite row. -/
theorem plotRow_prefix (b : Byte) (x0 py : Nat) (k : Canvas) (m : Nat) :
    let t := (List.range m).foldl (fun k col => if b.getLsbD (7 - col) then plotCell (x0 + col) py k else k) k
    (∀ qx qy, qx < 64 → qy < 32 →
      fbAt t.fb qx qy = (fbAt k.fb qx qy ^^ (decide (qy = py ∧ x0 ≤ qx ∧ qx < x0 + m) && b.getLsbD (7 - (qx - x0))))) ∧
    (t.coll = true ↔ k.coll = true ∨
      ∃ col, col < m ∧ b.getLsbD (7 - col) = true ∧ x0 + col < 64 ∧ py < 32 ∧ fbAt k.fb (x0 + col) py = true) := by
  induction m with
  | zero =>
    refine ⟨fun qx qy _ _ => ?_, by simp⟩
    have : ¬ (qy = py ∧ x0 ≤ qx ∧ qx < x0 + 0) := by omega
    simp only [this, decide_false, Bool.false_and, Bool.xor_false, List.range_zero, List.foldl_nil]
  | succ m ih =>
    simp only [List.range_succ, List.foldl_append, List.foldl_cons, List.foldl_nil]
    generalize (List.range m).foldl (fun k col => if b.getLsbD (7 - col) then plotCell (x0 + col) py k else k) k = t at ih
    obtain ⟨ih1, ih2⟩ := ih
    by_cases hb : b.getLsbD (7 - m) = true
    · rw [if_pos hb]
      constructor
      · intro qx qy hqx hqy
        rw [fbAt_plotCell t _ _ hqx hqy, ih1 qx qy hqx hqy]
        by_cases hx : qx = x0 + m ∧ qy = py
        · obtain ⟨rfl, rfl⟩ := hx
          simp [hb]
        · have : (qy = py ∧ x0 ≤ qx ∧ qx < x0 + (m + 1)) ↔ (qy = py ∧ x0 ≤ qx ∧ qx < x0 + m) := by omega
          simp only [this, hx, decide_false, Bool.xor_false]
      · rw [coll_plotCell, ih2]
        constructor
        · rintro ((h | ⟨col, h1, h2⟩) | ⟨h1, h2, h3⟩)
          · exact .inl h
          · exact .inr ⟨col, by omega, h2⟩
          · rw [ih1 _ _ h1 h2] at h3
            exact .inr ⟨m, by omega, hb, h1, h2, by simpa using h3⟩
        · rintro (h | ⟨col, h1, h2, h3, h4, h5⟩)
          · exact .inl (.inl h)
          · by_cases hc : col = m
            · subst hc
              exact .inr ⟨h3, h4, by rw [ih1 _ _ h3 h4]; simpa using h5⟩
            · exact .inl (.inr ⟨col, by omega, h2, h3, h4, h5⟩)
    · rw [if_neg hb]
      constructor
      · intro qx qy hqx hqy
        rw [ih1 qx qy hqx hqy]
        by_cases hx : qx = x0 + m
        · subst hx
          simp [Bool.not_eq_true _ ▸ hb]
        · have : (qy = py ∧ x0 ≤ qx ∧ qx < x0 + (m + 1)) ↔ (qy = py ∧ x0 ≤ qx ∧ qx < x0 + m) := by omega
          simp only [this]
      · rw [ih2]
        constructor
        · rintro (h | ⟨col, h1, h2⟩)
          · exact .inl h
          · exact .inr ⟨col, by omega, h2⟩
        · rintro (h | ⟨col, h1, h2, h3⟩)
          · exact .inl h
          · refine .inr ⟨col, ?_, h2, h3⟩
            have : col ≠ m := by rintro rfl; exact hb h2
            omega

/-- Whether the sprite `rows` at `(x0, y0)` covers the cell `(px, py)` with a set bit. -/
def spriteBit (rows : List Byte) (x0 y0 px py : Nat) : Bool :=
  decide (x0 ≤ px ∧ px < x0 + 8 ∧ y0 ≤ py ∧ py < y0 + rows.length) && (rows.getD (py - y0) 0).getLsbD (7 - (px - x0))

theorem spriteBit_nil (x0 y0 px py : Nat) : spriteBit [] x0 y0 px py = false := by
  simp [spriteBit]

theorem spriteBit_cons (b : Byte) (bs : List Byte) (x0 y0 px py : Nat) :
    spriteBit (b :: bs) x0 y0 px py =
      ((decide (py = y0 ∧ x0 ≤ px ∧ px < x0 + 8) && b.getLsbD (7 - (px - x0))) ^^ spriteBit bs x0 (y0 + 1) px py) := by
  unfold spriteBit
  rcases Nat.lt_trichotomy py y0 with h | rfl | h
  · have h1 : ¬ (x0 ≤ px ∧ px < x0 + 8 ∧ y0 ≤ py ∧ py < y0 + (b :: bs).length) := by omega
    have h2 : ¬ (x0 ≤ px ∧ px < x0 + 8 ∧ y0 + 1 ≤ py ∧ py < y0 + 1 + bs.length) := by omega
    have h3 : ¬ (py = y0 ∧ x0 ≤ px ∧ px < x0 + 8) := by omega
    simp only [h1, h2, h3, decide_false, Bool.false_and, Bool.xor_false]
  · have h1 : (x0 ≤ px ∧ px < x0 + 8 ∧ py ≤ py ∧ py < py + (b :: bs).length) ↔ (py = py ∧ x0 ≤ px ∧ px < x0 + 8) := by
      simp
    have h2 : ¬ (x0 ≤ px ∧ px < x0 + 8 ∧ py + 1 ≤ py ∧ py < py + 1 + bs.length) := by omega
    simp only [h1, h2, decide_false, Bool.false_and, Bool.xor_false, Nat.sub_self, List.getD_cons_zero]
  · obtain ⟨d, rfl⟩ := Nat.exists_eq_add_of_lt h
    have h1 : (x0 ≤ px ∧ px < x0 + 8 ∧ y0 ≤ y0 + d + 1 ∧ y0 + d + 1 < y0 + (b :: bs).length) ↔
        (x0 ≤ px ∧ px < x0 + 8 ∧ y0 + 1 ≤ y0 + d + 1 ∧ y0 + d + 1 < y0 + 1 + bs.length) := by
      simp only [List.length_cons]; omega
    have h3 : ¬ (y0 + d + 1 = y0 ∧ x0 ≤ px ∧ px < x0 + 8) := by omega
    rw [show y0 + d + 1 - y0 = d + 1 by omega, show y0 + d + 1 - (y0 + 1) = d by omega, List.getD_cons_succ]
    simp only [h1, h3, decide_false, Bool.false_and, Bool.false_xor]

/-- What the sprite loop does to the framebuffer: every cell it covers with a set bit is flipped, no other. -/
theorem fbAt_plotSprite (rows : List Byte) (x0 y0 : Nat) (k : Canvas) {qx qy : Nat} (hqx : qx < 64) (hqy : qy < 32) :
    fbAt (plotSprite rows x0 y0 k).fb qx qy = (fbAt k.fb qx qy ^^ spriteBit rows x0 y0 qx qy) := by
  induction rows generalizing y0 k with
  | nil => simp [plotSprite, spriteBit_nil]
  | cons b bs ih =>
    rw [plotSprite, ih, plotRow, (plotRow_prefix b x0 y0 k 8).1 qx qy hqx hqy, spriteBit_cons, Bool.xor_assoc]

/-- What the sprite loop does to the collision flag: it is set exactly when a cell in the grid that the sprite covers with a set
bit was on before the draw. -/
theorem coll_plotSprite (rows : List Byte) (x0 y0 : Nat) (k : Canvas) :
    (plotSprite rows x0 y0 k).coll = true ↔ k.coll = true ∨
      ∃ px py, px < 64 ∧ py < 32 ∧ spriteBit rows x0 y0 px py = true ∧ fbAt k.fb px py = true := by
  induction rows generalizing y0 k with
  | nil => simp [plotSprite, spriteBit_nil]
  | cons b bs ih =>
    obtain ⟨p1, p2⟩ := plotRow_prefix b x0 y0 k 8
    rw [plotSprite, ih, plotRow]
    generalize (List.range 8).foldl (fun k col => if b.getLsbD (7 - col) then plotCell (x0 + col) y0 k else k) k = t at p1 p2
    rw [p2]
    have hrow : ∀ px py, spriteBit bs x0 (y0 + 1) px py = true → py ≠ y0 := by
      rintro px py h rfl
      simp only [spriteBit, Bool.and_eq_true, decide_eq_true_eq] at h
      omega
    constructor
    · rintro ((h | ⟨col, h1, h2, h3, h4, h5⟩) | ⟨px, py, h1, h2, h3, h4⟩)
      · exact .inl h
      · refine .inr ⟨x0 + col, y0, h3, h4, ?_, h5⟩
        have : ¬ spriteBit bs x0 (y0 + 1) (x0 + col) y0 = true := fun h => hrow _ _ h rfl
        rw [spriteBit_cons]
        simp [this, h1, h2]
      · refine .inr ⟨px, py, h1, h2, ?_, ?_⟩
        · rw [spriteBit_cons]
          simp [hrow px py h3, h3]
        · simpa [p1 px py h1 h2, hrow px py h3] using h4
    · rintro (h | ⟨px, py, h1, h2, h3, h4⟩)
      · exact .inl (.inl h)
      · by_cases hy : py = y0
        · subst hy
          have hn : ¬ spriteBit bs x0 (py + 1) px py = true := fun h => hrow _ _ h rfl
          rw [spriteBit_cons] at h3
          simp only [hn, Bool.xor_false, true_and, Bool.and_eq_true, decide_eq_true_eq] at h3
          refine .inl (.inr ⟨px - x0, by omega, ?_, ?_, h2, ?_⟩)
          · exact h3.2
          · omega
          · rwa [show x0 + (px - x0) = px by omega]
        · rw [spriteBit_cons] at h3
          simp only [hy, false_and, decide_false, Bool.false_and, Bool.false_xor] at h3
          refine .inr ⟨px, py, h1, h2, h3, ?_⟩
          rw [p1 px py h1 h2]
          simpa [hy] using h4

end Sys2Proof.Machine
end

