-- ==== Sys2Proof/Laws/Memory.lean ====
section
/-! SUPPORT. The laws of memory: a read after a write, the canonical form that every memory operation keeps, and that equal
contents are equal lists. -/

namespace Sys2Proof.Machine

variable {font : Font}

@[simp] theorem Memory.read_nil (a : Nat) : Memory.read font [] a = unlistedByte font a := rfl

theorem Memory.read_cons (k : Nat) (b : Byte) (m : Memory) (a : Nat) :
    Memory.read font ((k, b) :: m) a = if k = a then b else Memory.read font m a := rfl

/-- Below its first address a memory in canonical form reads as unlisted. -/
theorem Memory.read_below {lo : Nat} {m : Memory} (h : Memory.wfFrom font lo m = true) {a : Nat} (ha : a < lo) :
    Memory.read font m a = unlistedByte font a := by
  induction m generalizing lo with
  | nil => rfl
  | cons c m ih =>
    obtain ⟨k, b⟩ := c
    simp only [Memory.wfFrom, Bool.and_eq_true, decide_eq_true_eq] at h
    obtain ⟨⟨⟨hk, -⟩, -⟩, hm⟩ := h
    rw [Memory.read_cons, if_neg (by omega)]
    exact ih hm (by omega)

/-- A memory in canonical form from `lo` is so from any lower address. -/
theorem Memory.wfFrom_mono {lo lo' : Nat} (hl : lo' ≤ lo) {m : Memory} (h : Memory.wfFrom font lo m = true) :
    Memory.wfFrom font lo' m = true := by
  cases m with
  | nil => rfl
  | cons c m =>
    obtain ⟨k, b⟩ := c
    simp only [Memory.wfFrom, Bool.and_eq_true, decide_eq_true_eq] at h ⊢
    exact ⟨⟨⟨by omega, h.1.1.2⟩, h.1.2⟩, h.2⟩

/-- Putting the cell for `b` at `a` in front of a memory that starts above `a`. -/
theorem Memory.wfFrom_cell {lo a : Nat} (hl : lo ≤ a) (ha : a < Config.memSize) (b : Byte) {m : Memory}
    (h : Memory.wfFrom font (a + 1) m = true) : Memory.wfFrom font lo (Memory.cell font a b ++ m) = true := by
  unfold Memory.cell
  split
  · exact Memory.wfFrom_mono (by omega) h
  · simp only [List.singleton_append, Memory.wfFrom, Bool.and_eq_true, decide_eq_true_eq]
    exact ⟨⟨⟨hl, ha⟩, ‹_›⟩, h⟩

theorem Memory.wfFrom_write {lo : Nat} {m : Memory} (h : Memory.wfFrom font lo m = true) {a : Nat} (hl : lo ≤ a)
    (ha : a < Config.memSize) (b : Byte) : Memory.wfFrom font lo (Memory.write font m a b) = true := by
  induction m generalizing lo with
  | nil => simpa [Memory.write] using Memory.wfFrom_cell (font := font) hl ha b (m := []) rfl
  | cons c m ih =>
    obtain ⟨k, d⟩ := c
    have h' := h
    simp only [Memory.wfFrom, Bool.and_eq_true, decide_eq_true_eq] at h
    obtain ⟨⟨⟨hk, hk'⟩, hd⟩, hm⟩ := h
    simp only [Memory.write]
    split
    · refine Memory.wfFrom_cell hl ha b ?_
      simp only [Memory.wfFrom, Bool.and_eq_true, decide_eq_true_eq]
      exact ⟨⟨⟨by omega, hk'⟩, hd⟩, hm⟩
    · split
      · subst_vars
        exact Memory.wfFrom_cell hl ha b hm
      · simp only [Memory.wfFrom, Bool.and_eq_true, decide_eq_true_eq]
        exact ⟨⟨⟨hk, hk'⟩, hd⟩, ih hm (by omega)⟩

/-- A write inside memory keeps the canonical form. -/
theorem Memory.wf_write {m : Memory} (h : Memory.wf font m = true) {a : Nat} (ha : a < Config.memSize) (b : Byte) :
    Memory.wf font (Memory.write font m a b) = true :=
  Memory.wfFrom_write h (Nat.zero_le a) ha b

/-- Writes of consecutive bytes inside memory keep the canonical form. -/
theorem Memory.wf_writeBytes {m : Memory} (h : Memory.wf font m = true) {a : Nat} {bs : List Byte}
    (ha : a + bs.length ≤ Config.memSize) : Memory.wf font (Memory.writeBytes font m a bs) = true := by
  induction bs generalizing m a with
  | nil => exact h
  | cons b bs ih =>
    simp only [List.length_cons] at ha
    exact ih (Memory.wf_write h (by omega) b) (by omega)

theorem Memory.read_cell_append (a : Nat) (b : Byte) (m : Memory) (c : Nat) :
    Memory.read font (Memory.cell font a b ++ m) c =
      if b ≠ unlistedByte font a ∧ a = c then b else Memory.read font m c := by
  unfold Memory.cell
  split
  · simp [*]
  · simp [Memory.read_cons, *]

/-- A write leaves every other byte alone. -/
theorem Memory.read_write_ne (m : Memory) {a c : Nat} (h : c ≠ a) (b : Byte) :
    Memory.read font (Memory.write font m a b) c = Memory.read font m c := by
  induction m with
  | nil =>
    have := Memory.read_cell_append (font := font) a b [] c
    simpa [Memory.write, Ne.symm h] using this
  | cons d m ih =>
    obtain ⟨k, e⟩ := d
    simp only [Memory.write]
    split
    · rw [Memory.read_cell_append, if_neg (by rintro ⟨-, rfl⟩; exact h rfl)]
    · split
      · subst_vars
        rw [Memory.read_cell_append, if_neg (by rintro ⟨-, rfl⟩; exact h rfl), Memory.read_cons, if_neg (Ne.symm h)]
      · rw [Memory.read_cons, Memory.read_cons, ih]

theorem Memory.read_write_same_from {lo : Nat} {m : Memory} (h : Memory.wfFrom font lo m = true) (a : Nat) (b : Byte) :
    Memory.read font (Memory.write font m a b) a = b := by
  induction m generalizing lo with
  | nil =>
    have := Memory.read_cell_append (font := font) a b [] a
    simp only [List.append_nil] at this
    rw [Memory.write, this]
    split <;> simp_all
  | cons d m ih =>
    obtain ⟨k, e⟩ := d
    have hwf := h
    simp only [Memory.wfFrom, Bool.and_eq_true, decide_eq_true_eq] at h
    obtain ⟨⟨⟨hk, hk'⟩, hd⟩, hm⟩ := h
    simp only [Memory.write]
    split
    · rw [Memory.read_cell_append]
      split
      · rfl
      · rename_i hak hb
        rw [Memory.read_cons, if_neg (by omega), Memory.read_below hm (by omega)]
        simpa using (not_and_or.1 hb |>.resolve_right (by simp) |> not_not.1).symm
    · split
      · subst_vars
        rw [Memory.read_cell_append]
        split
        · rfl
        · rename_i hb
          rw [Memory.read_below hm (by omega)]
          simpa using (not_and_or.1 hb |>.resolve_right (by simp) |> not_not.1).symm
      · rw [Memory.read_cons, if_neg (by omega)]
        exact ih hm

/-- A read after a write to the same address gives the value written. -/
theorem Memory.read_write_same {m : Memory} (h : Memory.wf font m = true) (a : Nat) (b : Byte) :
    Memory.read font (Memory.write font m a b) a = b :=
  Memory.read_write_same_from h a b

theorem Memory.read_writeBytes_of_lt (m : Memory) {a c : Nat} (bs : List Byte) (h : c < a) :
    Memory.read font (Memory.writeBytes font m a bs) c = Memory.read font m c := by
  induction bs generalizing m a with
  | nil => rfl
  | cons b bs ih =>
    rw [Memory.writeBytes, ih _ (by omega), Memory.read_write_ne m (by omega)]

/-- Reading after writes of consecutive bytes: inside them the byte written, elsewhere as before. -/
theorem Memory.read_writeBytes {m : Memory} (h : Memory.wf font m = true) {a : Nat} {bs : List Byte}
    (ha : a + bs.length ≤ Config.memSize) (c : Nat) :
    Memory.read font (Memory.writeBytes font m a bs) c =
      if a ≤ c ∧ c < a + bs.length then bs.getD (c - a) 0 else Memory.read font m c := by
  induction bs generalizing m a with
  | nil => simp [Memory.writeBytes]
  | cons b bs ih =>
    simp only [List.length_cons] at ha
    rw [Memory.writeBytes, ih (Memory.wf_write h (by omega) b) (by omega)]
    rcases Nat.lt_trichotomy c a with hc | rfl | hc
    · rw [if_neg (by omega), if_neg (by omega), Memory.read_write_ne m (by omega)]
    · rw [if_neg (by omega), if_pos (by simp), Memory.read_write_same h]
      simp
    · by_cases hin : c < a + 1 + bs.length
      · rw [if_pos (by omega), if_pos (by simp only [List.length_cons]; omega), show c - a = (c - (a + 1)) + 1 by omega,
          List.getD_cons_succ]
      · rw [if_neg (by omega), if_neg (by simp only [List.length_cons]; omega), Memory.read_write_ne m (by omega)]

/-- Outside the bytes written, every byte reads as before (in any memory). -/
theorem Memory.read_writeBytes_outside (m : Memory) {a c : Nat} (bs : List Byte) (h : c < a ∨ a + bs.length ≤ c) :
    Memory.read font (Memory.writeBytes font m a bs) c = Memory.read font m c := by
  induction bs generalizing m a with
  | nil => rfl
  | cons b bs ih =>
    simp only [List.length_cons] at h
    rw [Memory.writeBytes, ih _ (by omega), Memory.read_write_ne m (by omega)]

theorem Memory.eq_of_read_from {lo : Nat} {m n : Memory} (hm : Memory.wfFrom font lo m = true)
    (hn : Memory.wfFrom font lo n = true) (h : ∀ a, Memory.read font m a = Memory.read font n a) : m = n := by
  induction m generalizing lo n with
  | nil =>
    cases n with
    | nil => rfl
    | cons d n =>
      obtain ⟨k, e⟩ := d
      simp only [Memory.wfFrom, Bool.and_eq_true, decide_eq_true_eq] at hn
      have := h k
      simp only [Memory.read_nil, Memory.read_cons, if_pos] at this
      exact absurd this.symm hn.1.2
  | cons c m ih =>
    obtain ⟨j, b⟩ := c
    simp only [Memory.wfFrom, Bool.and_eq_true, decide_eq_true_eq] at hm
    obtain ⟨⟨⟨hj, -⟩, hb⟩, hm'⟩ := hm
    cases n with
    | nil =>
      have := h j
      simp only [Memory.read_nil, Memory.read_cons, if_pos] at this
      exact absurd this hb
    | cons d n =>
      obtain ⟨k, e⟩ := d
      simp only [Memory.wfFrom, Bool.and_eq_true, decide_eq_true_eq] at hn
      obtain ⟨⟨⟨hk, -⟩, he⟩, hn'⟩ := hn
      have hjk : j = k := by
        rcases Nat.lt_trichotomy j k with hlt | heq | hgt
        · have := h j
          rw [Memory.read_cons, if_pos rfl, Memory.read_cons, if_neg (by omega), Memory.read_below hn' (by omega)] at this
          exact absurd this hb
        · exact heq
        · have := h k
          rw [Memory.read_cons, if_neg (by omega), Memory.read_cons, if_pos rfl, Memory.read_below hm' (by omega)] at this
          exact absurd this.symm he
      subst hjk
      have hbe : b = e := by simpa [Memory.read_cons] using h j
      subst hbe
      congr 1
      refine ih hm' hn' fun a => ?_
      by_cases ha : j = a
      · subst ha
        rw [Memory.read_below hm' (by omega), Memory.read_below hn' (by omega)]
      · simpa [Memory.read_cons, ha] using h a

/-- Two memories in canonical form that read alike everywhere are the same list. -/
theorem Memory.eq_of_read {m n : Memory} (hm : Memory.wf font m = true) (hn : Memory.wf font n = true)
    (h : ∀ a, Memory.read font m a = Memory.read font n a) : m = n :=
  Memory.eq_of_read_from hm hn h

/-! ## The state's memory -/

/-- Outside the stored bytes every byte reads as before. -/
theorem State.readByte_writeBytes_outside (s : State) {a c : Nat} (bs : List Byte) (h : c < a ∨ a + bs.length ≤ c) :
    (s.writeBytes a bs).readByte c = s.readByte c :=
  Memory.read_writeBytes_outside s.mem bs h

/-- Inside the stored bytes the byte stored is read, elsewhere what was there before. -/
theorem State.readByte_writeBytes {s : State} (h : Memory.wf s.cfg.font s.mem = true) {a : Nat} {bs : List Byte}
    (ha : a + bs.length ≤ Config.memSize) (c : Nat) :
    (s.writeBytes a bs).readByte c = if a ≤ c ∧ c < a + bs.length then bs.getD (c - a) 0 else s.readByte c :=
  Memory.read_writeBytes h ha c

theorem State.wf_writeBytes {s : State} (h : Memory.wf s.cfg.font s.mem = true) {a : Nat} {bs : List Byte}
    (ha : a + bs.length ≤ Config.memSize) : Memory.wf (s.writeBytes a bs).cfg.font (s.writeBytes a bs).mem = true :=
  Memory.wf_writeBytes h ha

/-- The window check passes exactly when the window lies inside memory (R55). -/
theorem State.windowFault_eq_none (s : State) (a b : Nat) : s.windowFault a b = none ↔ s.idx.toNat + b ≤ 0xFFF := by
  unfold State.windowFault
  split <;> simp <;> omega

/-- A failing window check reports the lowest address of the window above 0xFFF (R55). -/
theorem State.windowFault_eq_some (s : State) (a b ea : Nat) :
    s.windowFault a b = some ea ↔ 0xFFF < s.idx.toNat + b ∧ ea = max (s.idx.toNat + a) 0x1000 := by
  unfold State.windowFault
  split <;> simp <;> omega

theorem State.length_regsUpTo (s : State) (x : Reg) : (s.regsUpTo x).length = x.val + 1 := by
  have := x.isLt
  simp only [State.regsUpTo, List.length_take, Vector.length_toList]
  omega

theorem State.getD_regsUpTo (s : State) (x r : Reg) (h : r ≤ x) : (s.regsUpTo x).getD r.val 0 = s.readV r := by
  have hr : r.val < x.val + 1 := Nat.lt_succ_of_le h
  simp [State.regsUpTo, State.readV, List.getD_eq_getElem?_getD, hr, Vector.get_eq_getElem]

theorem length_bcdDigits (b : Byte) : (bcdDigits b).length = 3 := rfl

end Sys2Proof.Machine
end

