-- ==== Sys2Proof/Laws/Exec.lean ====
section
/-! SUPPORT. What an instruction and a step can do, said once: the guard, then the error commit or the effect and the successful
commit (spec/40_step_cycle.md R113, R116, R118, spec/60_exceptions.md R301). -/

namespace Sys2Proof.Machine

/-- What an instruction whose guard passes does before its commit, over the shared operations. -/
def effect (i : Instr) (s : State) : State :=
  match i with
  | .cls => s.setFb fbClear
  | .ret => s.dropTop.setPc s.top
  | .jp nnn => s.setPc (zextAddr nnn)
  | .call nnn => (s.push s.pc).setPc (zextAddr nnn)
  | .seByte x nn => s.skipIf (s.readV x == nn)
  | .sneByte x nn => s.skipIf (s.readV x != nn)
  | .seReg x y => s.skipIf (s.readV x == s.readV y)
  | .ldByte x nn => s.writeV x nn
  | .ldReg x y => s.writeV x (s.readV y)
  | .orReg x y => s.writeV x (s.readV x ||| s.readV y)
  | .andReg x y => s.writeV x (s.readV x &&& s.readV y)
  | .xorReg x y => s.writeV x (s.readV x ^^^ s.readV y)
  | .addReg x y => s.writeResultFlag x (addResult (s.readV x) (s.readV y)) (carryFlag (s.readV x) (s.readV y))
  | .subReg x y => s.writeResultFlag x (subResult (s.readV x) (s.readV y)) (noBorrowFlag (s.readV x) (s.readV y))
  | .shr x => s.writeResultFlag x (shrResult (s.readV x)) (shrFlag (s.readV x))
  | .subn x y => s.writeResultFlag x (subResult (s.readV y) (s.readV x)) (noBorrowFlag (s.readV y) (s.readV x))
  | .shl x => s.writeResultFlag x (shlResult (s.readV x)) (shlFlag (s.readV x))
  | .sneReg x y => s.skipIf (s.readV x != s.readV y)
  | .ldI nnn => s.setIdx (zextAddr nnn)
  | .drw x y n => s.drawn (plotSprite (s.spriteBytes n.val) (s.startX x) (s.startY y) { fb := s.fb, coll := false })
  | .ldDT x => s.setDT (s.readV x)
  | .ldST x => s.setST (s.readV x)
  | .ldB x => s.writeBytes s.idx.toNat (bcdDigits (s.readV x))
  | .dump x => s.writeBytes s.idx.toNat (s.regsUpTo x)
  | .load x => s.loadRegs x
  | .addByte x nn => s.writeV x (addResult (s.readV x) nn)
  | .jpV0 nnn => s.setPc (trunc16 (nnn.toNat + (s.readV 0).toNat))
  | .rnd x nn => s.takeRnd.writeV x (s.rndSample &&& nn)
  | .skp x => s.takeKeys.skipIf (s.keysSample.getLsbD (keyIndex (s.readV x)))
  | .sknp x => s.takeKeys.skipIf (!s.keysSample.getLsbD (keyIndex (s.readV x)))
  | .ldVxDT x => s.writeV x s.dt
  | .ldVxK x => (s.takeKeys.setPc (if s.keysSample = 0 then s.hid.pcInsn else s.pc)).writeV x
      (if s.keysSample = 0 then s.readV x else trunc8 (lowestKey s.keysSample))
  | .addI x => s.setIdx (trunc16 (s.idx.toNat + (s.readV x).toNat))
  | .ldF x => s.setIdx (glyphAddr (s.readV x))

/-- The state an instruction leads to: the error commit when its guard fails, else its effect and the successful commit. -/
def outcome (i : Instr) (s : State) : State :=
  match guardOf i s with
  | some (c, ea) => s.raise c ea
  | none => (effect i s).commitOk

/-- Every instruction leads to its outcome. -/
theorem exec_eq (i : Instr) (s : State) : exec i s = .next (outcome i s) := by
  cases i <;> try rfl
  case ret =>
    simp only [exec, execRet, outcome, guardOf]
    split <;> rfl
  case call nnn =>
    simp only [exec, execCall, outcome, guardOf]
    split <;> rfl
  case drw x y n =>
    simp only [exec, execDrw, outcome, guardOf]
    cases s.drawFault n <;> rfl
  case ldB x =>
    simp only [exec, execLdB, outcome, guardOf]
    cases s.windowFault 0 2 <;> rfl
  case dump x =>
    simp only [exec, execDump, outcome, guardOf]
    cases s.windowFault 0 x.val <;> rfl
  case load x =>
    simp only [exec, execLoad, outcome, guardOf]
    cases s.windowFault 0 x.val <;> rfl

theorem outcome_of_guard_some {i : Instr} {s : State} {c : Code} {ea : Nat} (h : guardOf i s = some (c, ea)) :
    outcome i s = s.raise c ea := by simp [outcome, h]

theorem outcome_of_guard_none {i : Instr} {s : State} (h : guardOf i s = none) : outcome i s = (effect i s).commitOk := by
  simp [outcome, h]

/-- No effect touches the parameters, STATUS, the log or the FSM's registers. -/
@[simp] theorem effect_cfg (i : Instr) (s : State) : (effect i s).cfg = s.cfg := by cases i <;> rfl
@[simp] theorem effect_status (i : Instr) (s : State) : (effect i s).status = s.status := by cases i <;> rfl
@[simp] theorem effect_log (i : Instr) (s : State) : (effect i s).log = s.log := by cases i <;> rfl
@[simp] theorem effect_hid (i : Instr) (s : State) : (effect i s).hid = s.hid := by cases i <;> rfl

/-- The word fetched and the bound it is fetched under (R110). -/
theorem fetchWord_eq_some (s : State) (w : Word) :
    s.fetchWord = some w ↔
      s.pc.toNat ≤ 0x0FFE ∧ w = wordOfBytes (s.readByte s.pc.toNat) (s.readByte (s.pc.toNat + 1)) := by
  unfold State.fetchWord
  split
  · simp; omega
  · simp [eq_comm]; omega

theorem fetchWord_eq_none (s : State) : s.fetchWord = none ↔ 0x0FFE < s.pc.toNat := by
  unfold State.fetchWord
  split <;> simp <;> omega

/-- What a step can do: nothing while busy; a fetch outside memory; an unrecognized word; or the decoded instruction. -/
theorem step_cases {s t : State} (h : step s = .next t) :
    (s.busy = true ∧ t = s) ∨
    (s.busy = false ∧ s.fetchWord = none ∧ t = s.fetchFault) ∨
    (s.busy = false ∧ ∃ w r, s.fetchWord = some w ∧ decodeWord s.cfg.extOps w = .error r ∧ t = (s.latch w).unrecognized) ∨
    (s.busy = false ∧ ∃ w i, s.fetchWord = some w ∧ decodeWord s.cfg.extOps w = .ok i ∧ t = outcome i (s.latch w)) := by
  unfold step at h
  split at h
  case isTrue hb => exact .inl ⟨hb, (Host.Outcome.next.inj h).symm⟩
  case isFalse hb =>
    have hb : s.busy = false := Bool.eq_false_iff.2 hb
    split at h
    case h_1 hf => exact .inr (.inl ⟨hb, hf, (Host.Outcome.next.inj h).symm⟩)
    case h_2 w hw =>
      split at h
      case h_1 r hr => exact .inr (.inr (.inl ⟨hb, w, r, hw, hr, (Host.Outcome.next.inj h).symm⟩))
      case h_2 i hi =>
        rw [exec_eq] at h
        exact .inr (.inr (.inr ⟨hb, w, i, hw, hi, (Host.Outcome.next.inj h).symm⟩))

/-- A step that decodes an instruction leads to its outcome on the latched state. -/
theorem step_of_decode {s : State} {w : Word} {i : Instr} (hb : s.busy = false) (hw : s.fetchWord = some w)
    (hi : decodeWord s.cfg.extOps w = .ok i) : step s = .next (outcome i (s.latch w)) := by
  simp [step, hb, hw, hi, exec_eq]

/-- A step outside memory reports the fetch bound. -/
theorem step_of_fetchFault {s : State} (hb : s.busy = false) (hw : s.fetchWord = none) : step s = .next s.fetchFault := by
  simp [step, hb, hw]

/-- A step of an unrecognized word reports it. -/
theorem step_of_unrecognized {s : State} {w : Word} {r : DecodeReject} (hb : s.busy = false) (hw : s.fetchWord = some w)
    (hr : decodeWord s.cfg.extOps w = .error r) : step s = .next (s.latch w).unrecognized := by
  simp [step, hb, hw, hr]

end Sys2Proof.Machine
end

