-- ==== Sys2Proof/Laws/PerInstr.lean ====
section
/-! SUPPORT. Facts about every instruction as syntax, one lemma per constructor. Canonical: the canonical word of an instruction
is a word of its row, `w AND mask = match` (spec/30_encoding.md R75, R81; spec/46_optional_standard.md R250). -/

namespace Sys2Proof.Laws.Canonical

/-- The canonical word of `i` lies in the row of `i`. -/
def Statement (i : Instr) : Prop := encode i &&& i.matchMask.2 = i.matchMask.1

/-- Masking the top nibble of a word keeps `t`. -/
theorem and_F000 (w : Word) : (w &&& (0xF000 : Word)).toNat = w.toNat / 4096 * 4096 := by
  have h : w &&& (0xF000 : Word) = (w >>> 12) <<< 12 := by
    ext i hi
    have : i < 16 := hi
    interval_cases i <;> simp
  have hw := w.isLt
  rw [h, BitVec.toNat_shiftLeft, BitVec.toNat_ushiftRight, Nat.shiftLeft_eq, Nat.shiftRight_eq_div_pow]
  omega

/-- Masking the top and low nibbles. -/
theorem and_F00F (w : Word) : (w &&& (0xF00F : Word)).toNat = w.toNat / 4096 * 4096 + w.toNat % 16 := by
  have h : w &&& (0xF00F : Word) = (w &&& (0xF000 : Word)) + (w &&& (0x000F : Word)) := by
    rw [BitVec.add_eq_or_of_and_eq_zero]
    · ext i hi
      have : i < 16 := hi
      interval_cases i <;> simp
    · ext i hi
      have : i < 16 := hi
      interval_cases i <;> simp
  have hl : (w &&& (0x000F : Word)).toNat = w.toNat % 16 := by
    rw [BitVec.toNat_and]
    exact Nat.and_two_pow_sub_one_eq_mod w.toNat 4
  have hw := w.isLt
  rw [h, BitVec.toNat_add, and_F000, hl]
  omega

/-- Masking the top nibble and the low byte. -/
theorem and_F0FF (w : Word) : (w &&& (0xF0FF : Word)).toNat = w.toNat / 4096 * 4096 + w.toNat % 256 := by
  have h : w &&& (0xF0FF : Word) = (w &&& (0xF000 : Word)) + (w &&& (0x00FF : Word)) := by
    rw [BitVec.add_eq_or_of_and_eq_zero]
    · ext i hi
      have : i < 16 := hi
      interval_cases i <;> simp
    · ext i hi
      have : i < 16 := hi
      interval_cases i <;> simp
  have hl : (w &&& (0x00FF : Word)).toNat = w.toNat % 256 := by
    rw [BitVec.toNat_and]
    exact Nat.and_two_pow_sub_one_eq_mod w.toNat 8
  have hw := w.isLt
  rw [h, BitVec.toNat_add, and_F000, hl]
  omega

theorem addr_row (t : Fin 16) (nnn : Addr) : packAddr t nnn &&& (0xF000 : Word) = trunc16 (t.val * 4096) := by
  apply BitVec.eq_of_toNat_eq
  have := nnn.isLt; have := t.isLt
  rw [and_F000, packAddr_toNat, BitVec.toNat_ofNat]
  omega
theorem byte_row (t x : Fin 16) (nn : Byte) : packByte t x nn &&& (0xF000 : Word) = trunc16 (t.val * 4096) := by
  apply BitVec.eq_of_toNat_eq
  have := nn.isLt; have := t.isLt; have := x.isLt
  rw [and_F000, packByte_toNat, BitVec.toNat_ofNat]
  omega
theorem byte_key_row (t x : Fin 16) (nn : Byte) : packByte t x nn &&& (0xF0FF : Word) = trunc16 (t.val * 4096 + nn.toNat) := by
  apply BitVec.eq_of_toNat_eq
  have := nn.isLt; have := t.isLt; have := x.isLt
  rw [and_F0FF, packByte_toNat, BitVec.toNat_ofNat]
  omega
theorem nibbles_row (t x y n : Fin 16) : packNibbles t x y n &&& (0xF000 : Word) = trunc16 (t.val * 4096) := by
  apply BitVec.eq_of_toNat_eq
  have := n.isLt; have := t.isLt; have := x.isLt; have := y.isLt
  rw [and_F000, packNibbles_toNat, BitVec.toNat_ofNat]
  omega
theorem nibbles_key_row (t x y n : Fin 16) : packNibbles t x y n &&& (0xF00F : Word) = trunc16 (t.val * 4096 + n.val) := by
  apply BitVec.eq_of_toNat_eq
  have := n.isLt; have := t.isLt; have := x.isLt; have := y.isLt
  rw [and_F00F, packNibbles_toNat, BitVec.toNat_ofNat]
  omega

theorem cls : Statement .cls := by unfold Statement; decide
theorem ret : Statement .ret := by unfold Statement; decide
theorem jp (nnn : Addr) : Statement (.jp nnn) := addr_row _ nnn
theorem call (nnn : Addr) : Statement (.call nnn) := addr_row _ nnn
theorem seByte (x : Reg) (nn : Byte) : Statement (.seByte x nn) := byte_row _ x nn
theorem sneByte (x : Reg) (nn : Byte) : Statement (.sneByte x nn) := byte_row _ x nn
theorem seReg (x : Reg) (y : Reg) : Statement (.seReg x y) := nibbles_row _ x y _
theorem ldByte (x : Reg) (nn : Byte) : Statement (.ldByte x nn) := byte_row _ x nn
theorem ldReg (x : Reg) (y : Reg) : Statement (.ldReg x y) := nibbles_key_row _ x y _
theorem orReg (x : Reg) (y : Reg) : Statement (.orReg x y) := nibbles_key_row _ x y _
theorem andReg (x : Reg) (y : Reg) : Statement (.andReg x y) := nibbles_key_row _ x y _
theorem xorReg (x : Reg) (y : Reg) : Statement (.xorReg x y) := nibbles_key_row _ x y _
theorem addReg (x : Reg) (y : Reg) : Statement (.addReg x y) := nibbles_key_row _ x y _
theorem subReg (x : Reg) (y : Reg) : Statement (.subReg x y) := nibbles_key_row _ x y _
theorem shr (x : Reg) : Statement (.shr x) := nibbles_key_row _ x _ _
theorem subn (x : Reg) (y : Reg) : Statement (.subn x y) := nibbles_key_row _ x y _
theorem shl (x : Reg) : Statement (.shl x) := nibbles_key_row _ x _ _
theorem sneReg (x : Reg) (y : Reg) : Statement (.sneReg x y) := nibbles_row _ x y _
theorem ldI (nnn : Addr) : Statement (.ldI nnn) := addr_row _ nnn
theorem drw (x : Reg) (y : Reg) (n : Fin 16) : Statement (.drw x y n) := nibbles_row _ x y n
theorem ldDT (x : Reg) : Statement (.ldDT x) := byte_key_row _ x _
theorem ldST (x : Reg) : Statement (.ldST x) := byte_key_row _ x _
theorem ldB (x : Reg) : Statement (.ldB x) := byte_key_row _ x _
theorem dump (x : Reg) : Statement (.dump x) := byte_key_row _ x _
theorem load (x : Reg) : Statement (.load x) := byte_key_row _ x _
theorem addByte (x : Reg) (nn : Byte) : Statement (.addByte x nn) := byte_row _ x nn
theorem jpV0 (nnn : Addr) : Statement (.jpV0 nnn) := addr_row _ nnn
theorem rnd (x : Reg) (nn : Byte) : Statement (.rnd x nn) := byte_row _ x nn
theorem skp (x : Reg) : Statement (.skp x) := byte_key_row _ x _
theorem sknp (x : Reg) : Statement (.sknp x) := byte_key_row _ x _
theorem ldVxDT (x : Reg) : Statement (.ldVxDT x) := byte_key_row _ x _
theorem ldVxK (x : Reg) : Statement (.ldVxK x) := byte_key_row _ x _
theorem addI (x : Reg) : Statement (.addI x) := byte_key_row _ x _
theorem ldF (x : Reg) : Statement (.ldF x) := byte_key_row _ x _

end Sys2Proof.Laws.Canonical
end

