-- ==== Sys2Proof/Tests/Slice0.lean ====
section
/-! SUPPORT. The model's own tests. Expected results are the vectors of spec/95_test_vectors.md and the examples in the rules
named; decoded words are written out from spec/30_encoding.md R71 to R75 and spec/46_optional_standard.md R250. Then, for every
statement that has hypotheses, a witness that meets them. -/

namespace Sys2Proof.Tests

open Sys2Proof Sys2Proof.Machine

/-! ## Helpers -/

/-- The word `w` at 0x200 of a machine after reset, with the `EXT_OPS` `e`. -/
def at200 (w : Word) (e : ExtOps := ExtOps.none) : State :=
  ({ State.reset with cfg := { State.reset.cfg with extOps := e } }).writeBytes 0x200 (bytesOfWord w)

/-- Registers set, for a test's start. -/
def withV (l : List (Reg × Byte)) (s : State) : State := l.foldl (fun s p => s.writeV p.1 p.2) s

/-- The state a step leads to. -/
def ran (s : State) : State :=
  match step s with
  | .next t => t
  | .fault _ => s
  | .refused _ => s

/-- What STATUS holds, as the vectors write it. -/
def statusOf (s : State) : Nat × Nat × Nat × Nat :=
  (s.status.code.bits.toNat, s.status.word.toNat, s.status.pc.toNat, s.status.ea.toNat)

/-! ## WellFormed: one ill-formed term for each check (R250: a member that is not enabled) -/

theorem test_wf_addByte : (Instr.addByte 2 5).wellFormed ExtOps.none = false := by decide
theorem test_wf_jpV0 : (Instr.jpV0 0x300).wellFormed ExtOps.none = false := by decide
theorem test_wf_rnd : (Instr.rnd 3 0x0F).wellFormed ExtOps.none = false := by decide
theorem test_wf_skp : (Instr.skp 1).wellFormed ExtOps.none = false := by decide
theorem test_wf_sknp : (Instr.sknp 1).wellFormed ExtOps.none = false := by decide
theorem test_wf_ldVxDT : (Instr.ldVxDT 4).wellFormed ExtOps.none = false := by decide
theorem test_wf_ldVxK : (Instr.ldVxK 2).wellFormed ExtOps.none = false := by decide
theorem test_wf_addI : (Instr.addI 0).wellFormed ExtOps.none = false := by decide
theorem test_wf_ldF : (Instr.ldF 0).wellFormed ExtOps.none = false := by decide
/-- A member does not open another member's words. -/
theorem test_wf_alone :
    (Instr.skp 1).wellFormed { sknp := true } = false ∧ (Instr.sknp 1).wellFormed { sknp := true } = true := by decide

/-! ## Decoding: a word for every constructor, from R71 to R75 and R250 -/

theorem test_decode_control :
    decodeWord ExtOps.none 0x1208 = .ok (.jp 0x208) ∧ decodeWord ExtOps.none 0x2300 = .ok (.call 0x300) ∧
    decodeWord ExtOps.none 0x00EE = .ok .ret ∧ decodeWord ExtOps.none 0x3342 = .ok (.seByte 3 0x42) ∧
    decodeWord ExtOps.none 0x4342 = .ok (.sneByte 3 0x42) ∧ decodeWord ExtOps.none 0x5127 = .ok (.seReg 1 2) ∧
    decodeWord ExtOps.none 0x9120 = .ok (.sneReg 1 2) := by decide

theorem test_decode_arith :
    decodeWord ExtOps.none 0x6A2F = .ok (.ldByte 10 0x2F) ∧ decodeWord ExtOps.none 0x8120 = .ok (.ldReg 1 2) ∧
    decodeWord ExtOps.none 0x8121 = .ok (.orReg 1 2) ∧ decodeWord ExtOps.none 0x8122 = .ok (.andReg 1 2) ∧
    decodeWord ExtOps.none 0x8123 = .ok (.xorReg 1 2) ∧ decodeWord ExtOps.none 0x80F4 = .ok (.addReg 0 15) ∧
    decodeWord ExtOps.none 0x8F05 = .ok (.subReg 15 0) ∧ decodeWord ExtOps.none 0x8406 = .ok (.shr 4) ∧
    decodeWord ExtOps.none 0x8017 = .ok (.subn 0 1) ∧ decodeWord ExtOps.none 0x840E = .ok (.shl 4) := by decide

theorem test_decode_memory :
    decodeWord ExtOps.none 0xA2F0 = .ok (.ldI 0x2F0) ∧ decodeWord ExtOps.none 0xF533 = .ok (.ldB 5) ∧
    decodeWord ExtOps.none 0xF255 = .ok (.dump 2) ∧ decodeWord ExtOps.none 0xF165 = .ok (.load 1) := by decide

theorem test_decode_display_timers :
    decodeWord ExtOps.none 0x0FF0 = .ok .cls ∧ decodeWord ExtOps.none 0xDF15 = .ok (.drw 15 1 5) ∧
    decodeWord ExtOps.none 0xF315 = .ok (.ldDT 3) ∧ decodeWord ExtOps.none 0xF318 = .ok (.ldST 3) := by decide

theorem test_decode_ext :
    decodeWord { addImm := true } 0x7205 = .ok (.addByte 2 5) ∧ decodeWord { jpV0 := true } 0xB300 = .ok (.jpV0 0x300) ∧
    decodeWord { rnd := true } 0xC30F = .ok (.rnd 3 0x0F) ∧ decodeWord { skp := true } 0xE19E = .ok (.skp 1) ∧
    decodeWord { sknp := true } 0xE1A1 = .ok (.sknp 1) ∧ decodeWord { ldVxDt := true } 0xF407 = .ok (.ldVxDT 4) ∧
    decodeWord { ldVxK := true } 0xF20A = .ok (.ldVxK 2) ∧ decodeWord { addI := true } 0xF01E = .ok (.addI 0) ∧
    decodeWord { ldF := true } 0xF029 = .ok (.ldF 0) := by decide

/-- R78: what stays unrecognized with every member enabled. -/
theorem test_decode_reserved :
    decodeWord ExtOps.all 0x0123 = .error (.unknownKey 0x0123) ∧ decodeWord ExtOps.all 0x800F = .error (.unknownKey 0x800F) ∧
    decodeWord ExtOps.all 0xE19F = .error (.unknownKey 0xE19F) ∧ decodeWord ExtOps.all 0xF000 = .error (.unknownKey 0xF000) ∧
    decode ExtOps.all [0x12] = .error .truncated := by decide

/-- R52, R70: the byte at the lower address is bits 15:8, and two bytes are consumed. -/
theorem test_decode_bytes : decode ExtOps.none [0x12, 0x10, 0xAB] = .ok (.jp 0x210, [0xAB]) := by decide

/-- R81: canonical words, and the listing of program P3 (spec/95_test_vectors.md) up to its data byte. -/
theorem test_assemble :
    assemble [.instr .cls, .instr (.ldI 0x216), .instr (.ldByte 0 0x3E), .instr (.drw 0 1 1), .shrWithY 0 1, .db 0xF0] =
      [0x00, 0xE0, 0xA2, 0x16, 0x60, 0x3E, 0xD0, 0x11, 0x80, 0x16, 0xF0] := by decide

/-- R81: the spelling of an instruction. -/
theorem test_text : Instr.text (.drw 0 15 10) = "DRW V0, VF, 10".toList ∧ Instr.text (.dump 2) = "LD [I], V2".toList := by decide

/-! ## Fetch and step (vectors STEP, PR) -/

/-- STEP-1 -/
theorem test_step_last_word :
    let t := ran { State.reset.writeBytes 0xFFE [0x60, 0x07] with pc := 0xFFE }
    t.readV 0 = 7 ∧ t.pc = 0x1000 ∧ statusOf t = (0, 0x6007, 0xFFE, 0) := by decide
/-- STEP-2 and STEP-4 -/
theorem test_step_fetch_bound :
    statusOf (ran { State.reset with pc := 0xFFF }) = (5, 0, 0xFFF, 0x1000) ∧
    statusOf (ran { State.reset with pc := 0x1002 }) = (5, 0, 0x1002, 0x1002) := by decide
/-- STEP-7 -/
theorem test_step_unrecognized :
    (ran (at200 0xF000)).pc = 0x202 ∧ statusOf (ran (at200 0xF000)) = (1, 0xF000, 0x200, 0) := by decide
/-- PR-1: the fetch is checked first. -/
theorem test_priority : statusOf (ran { State.reset with pc := 0xFFF, sp := 16 }) = (5, 0, 0xFFF, 0x1000) := by decide

/-! ## Control flow (vectors CF) -/

/-- CF-4 -/
theorem test_jp : (ran (at200 0x1333)).pc = 0x333 := by decide
/-- CF-7 -/
theorem test_call :
    let t := ran { at200 0x2300 with sp := 15 }
    t.stk.get 15 = 0x202 ∧ t.sp = 16 ∧ t.pc = 0x300 := by decide
/-- CF-6 -/
theorem test_call_overflow :
    let t := ran { at200 0x2300 with sp := 16 }
    t.pc = 0x200 ∧ t.sp = 16 ∧ statusOf t = (2, 0x2300, 0x200, 0) := by decide
/-- CF-9 -/
theorem test_ret :
    let t := ran { at200 0x00EE with sp := 1, stk := State.reset.stk.set 0 0x344 }
    t.pc = 0x344 ∧ t.sp = 0 ∧ t.stk.get 0 = 0x344 := by decide
/-- CF-10 -/
theorem test_ret_underflow : statusOf (ran (at200 0x00EE)) = (3, 0x00EE, 0x200, 0) ∧ (ran (at200 0x00EE)).pc = 0x200 := by decide
/-- CF-11 and CF-12 -/
theorem test_seByte :
    (ran (withV [(3, 0x42)] (at200 0x3342))).pc = 0x204 ∧ (ran (withV [(3, 0x41)] (at200 0x3342))).pc = 0x202 := by decide
/-- CF-13 and CF-14 -/
theorem test_sneByte :
    (ran (withV [(3, 0x41)] (at200 0x4342))).pc = 0x204 ∧ (ran (withV [(3, 0x42)] (at200 0x4342))).pc = 0x202 := by decide
/-- CF-16 and CF-17 -/
theorem test_seReg :
    (ran (withV [(1, 7), (2, 7)] (at200 0x5127))).pc = 0x204 ∧ (ran (withV [(1, 7), (2, 8)] (at200 0x5120))).pc = 0x202 := by
  decide
/-- CF-18 and CF-19 -/
theorem test_sneReg :
    (ran (withV [(1, 7), (2, 8)] (at200 0x9120))).pc = 0x204 ∧ (ran (withV [(1, 7)] (at200 0x9110))).pc = 0x202 := by decide

/-! ## Registers and arithmetic (vectors AR) -/

/-- AR-2 -/
theorem test_ldByte : (ran (at200 0x6FAB)).readV 15 = 0xAB := by decide
/-- AR-3 -/
theorem test_ldReg : (ran (withV [(1, 0x11)] (at200 0x8010))).readV 0 = 0x11 := by decide
/-- AR-4: VF is unchanged. -/
theorem test_or :
    let t := ran (withV [(0, 0x0C), (1, 0x0A), (15, 0x55)] (at200 0x8011))
    t.readV 0 = 0x0E ∧ t.readV 15 = 0x55 := by decide
/-- AR-5 -/
theorem test_and : (ran (withV [(0, 0x0C), (1, 0x0A)] (at200 0x8012))).readV 0 = 0x08 := by decide
/-- AR-6 -/
theorem test_xor : (ran (withV [(0, 0x0C), (1, 0x0A)] (at200 0x8013))).readV 0 = 0x06 := by decide
/-- AR-14: the operand VF is read before it is written. -/
theorem test_add :
    let t := ran (withV [(0, 0x10), (15, 0xF0)] (at200 0x80F4))
    t.readV 0 = 0x00 ∧ t.readV 15 = 1 := by decide
/-- AR-13: the flag is written last. -/
theorem test_add_vf : (ran (withV [(15, 0x80), (1, 0x80)] (at200 0x8F14))).readV 15 = 1 := by decide
/-- AR-15 -/
theorem test_sub :
    let t := ran (withV [(0, 0x05), (1, 0x07)] (at200 0x8015))
    t.readV 0 = 0xFE ∧ t.readV 15 = 0 := by decide
/-- AR-17 -/
theorem test_sub_equal : (ran (withV [(0, 0x05), (1, 0x05)] (at200 0x8015))).readV 15 = 1 := by decide
/-- AR-22 -/
theorem test_subn :
    let t := ran (withV [(0, 0xFF)] (at200 0x8017))
    t.readV 0 = 0x01 ∧ t.readV 15 = 0 := by decide
/-- AR-27: `y` is ignored. -/
theorem test_shr :
    let t := ran (withV [(0, 0xFF)] (at200 0x8016))
    t.readV 0 = 0x7F ∧ t.readV 1 = 0x00 ∧ t.readV 15 = 1 := by decide
/-- AR-29 -/
theorem test_shr_vf : (ran (withV [(15, 0x02)] (at200 0x8F06))).readV 15 = 0 := by decide
/-- AR-31 -/
theorem test_shl :
    let t := ran (withV [(0, 0xC1)] (at200 0x800E))
    t.readV 0 = 0x82 ∧ t.readV 15 = 1 := by decide

/-! ## Memory and index (vectors MEM) -/

/-- MEM-2 -/
theorem test_ldI : (ran (at200 0xAFFF)).idx = 0xFFF := by decide
/-- MEM-3, for 254 -/
theorem test_ldB :
    let t := ran (withV [(0, 254)] { at200 0xF033 with idx := 0x300 })
    (t.readByte 0x300, t.readByte 0x301, t.readByte 0x302) = (2, 5, 4) := by decide
/-- MEM-5 -/
theorem test_ldB_bound :
    let t := ran (withV [(0, 7)] { at200 0xF033 with idx := 0xFFE })
    t.pc = 0x200 ∧ t.readByte 0xFFF = 0 ∧ statusOf t = (4, 0xF033, 0x200, 0x1000) := by decide
/-- MEM-7 -/
theorem test_dump :
    let t := ran (withV [(0, 1), (1, 2), (2, 3), (3, 4)] { at200 0xF255 with idx := 0x400 })
    (t.readByte 0x400, t.readByte 0x401, t.readByte 0x402, t.readByte 0x403) = (1, 2, 3, 0) ∧ t.idx = 0x400 := by decide
/-- MEM-16: the running step is unaffected. -/
theorem test_dump_over_itself :
    let t := ran (withV [(0, 0x12), (1, 0x34)] { at200 0xF155 with idx := 0x200 })
    t.readByte 0x200 = 0x12 ∧ t.readByte 0x201 = 0x34 ∧ t.pc = 0x202 := by decide
/-- MEM-14: glyph 0 of the default font. -/
theorem test_load :
    let t := ran { at200 0xF465 with idx := 0x050 }
    (t.readV 0, t.readV 1, t.readV 4, t.readV 5) = (0xF0, 0x90, 0xF0, 0) := by decide
/-- MEM-15 -/
theorem test_load_bound : statusOf (ran { at200 0xFF65 with idx := 0xFF8 }) = (4, 0xFF65, 0x200, 0x1000) := by decide

/-! ## Display (vectors DRW) -/

/-- DRW-16 -/
theorem test_cls :
    let t := ran (withV [(15, 0x55)] { at200 0x00E0 with fb := Vector.replicate 32 0xFFFF })
    t.fb = Vector.replicate 32 0 ∧ t.readV 15 = 0x55 := by decide
/-- DRW-4: clipped at column 64. -/
theorem test_drw_clip :
    let t := ran (withV [(0, 62), (1, 95), (15, 0x55)] { (at200 0xD011).writeBytes 0x300 [0xF0] with idx := 0x300 })
    t.fb = (Vector.replicate 32 0).set 31 3 ∧ t.readV 15 = 0 := by decide
/-- DRW-14: a collision. -/
theorem test_drw_collision :
    let t := ran { (at200 0xD011).writeBytes 0x300 [0xC0] with
                   idx := 0x300, fb := (Vector.replicate 32 0).set 0 0x8000000000000000 }
    fbAt t.fb 0 0 = false ∧ fbAt t.fb 1 0 = true ∧ t.readV 15 = 1 := by decide
/-- R213: the masks of the row form. -/
theorem test_rowMask : rowMask 0xF0 62 = 3 ∧ rowMask 0x0F 60 = 0 ∧ rowMask 0xC0 63 = 1 ∧ rowMask 0xFF 60 = 0xF := by decide

/-- R120: EX_DRW ends "then VF", so VF is written before COMMIT; PC and STATUS are not. -/
theorem test_fsm_drw_vf :
    let s := withV [(15, 0x55)] { at200 0xD011 with idx := 0x050 }
    let t := runCycles (List.replicate 7 Pins.quiet) (requestStep s)
    t.hid.ctl = .commit ∧ t.readV 15 = 0 ∧ t.pc = 0x200 := by decide

/-! ## Timers (vectors TM) -/

/-- TM-1 -/
theorem test_ldDT : (ran (withV [(3, 60)] (at200 0xF315))).dt = 60 := by decide
/-- TM-2 and TM-3 -/
theorem test_ldST :
    let t := ran (withV [(3, 2)] (at200 0xF318))
    t.st = 2 ∧ t.soundOn = true ∧ t.tick.tick.soundOn = false := by decide
/-- TM-5 -/
theorem test_tick :
    let t := ({ State.reset with dt := 1, st := 5 }).tick
    t.dt = 0 ∧ t.st = 4 ∧ t.tick.dt = 0 := by decide
/-- TM-8: a tick in the cycle of the write; the write wins. -/
theorem test_tick_same_cycle :
    let s := withV [(0, 9)] { at200 0xF015 with dt := 5 }
    (runCycles (List.replicate 4 Pins.quiet ++ [{ tick := true }]) (requestStep s)).dt = 9 := by decide

/-! ## EXT_OPS (vectors EX) -/

/-- EX-2: no carry into VF. -/
theorem test_addByte :
    let t := ran (withV [(2, 0xFF), (15, 0x55)] (at200 0x7201 { addImm := true }))
    t.readV 2 = 0 ∧ t.readV 15 = 0x55 := by decide
/-- EX-4 -/
theorem test_jpV0 : (ran (withV [(0, 0xFF)] (at200 0xBFFF { jpV0 := true }))).pc = 0x10FE := by decide
/-- EX-5 -/
theorem test_rnd : (ran ((at200 0xC30F { rnd := true }).supplyRnd 0xA7)).readV 3 = 0x07 := by decide
/-- EX-7: the low nibble of V1. -/
theorem test_skp : (ran (withV [(1, 0x15)] ((at200 0xE19E { skp := true }).supplyKeys 0x0020))).pc = 0x204 := by decide
/-- EX-8, and with the key held -/
theorem test_sknp :
    (ran (withV [(1, 5)] ((at200 0xE1A1 { sknp := true }).supplyKeys 0))).pc = 0x204 ∧
    (ran (withV [(1, 5)] ((at200 0xE1A1 { sknp := true }).supplyKeys 0x0020))).pc = 0x202 := by decide
/-- EX-9 -/
theorem test_ldVxDT : (ran { at200 0xF407 { ldVxDt := true } with dt := 0x20 }).readV 4 = 0x20 := by decide
/-- EX-10 -/
theorem test_ldVxK_none :
    let t := ran ((at200 0xF20A { ldVxK := true }).supplyKeys 0)
    t.pc = 0x200 ∧ t.status.code = .ok := by decide
/-- EX-11 -/
theorem test_ldVxK :
    let t := ran ((at200 0xF20A { ldVxK := true }).supplyKeys 0x0110)
    t.readV 2 = 4 ∧ t.pc = 0x202 := by decide
/-- EX-12 -/
theorem test_addI : (ran (withV [(0, 2)] { at200 0xF01E { addI := true } with idx := 0xFFF })).idx = 0x1001 := by decide
/-- EX-14 -/
theorem test_ldF : (ran (withV [(0, 0x1F)] (at200 0xF029 { ldF := true }))).idx = 0x09B := by decide

/-! ## Reset and load (vectors LD, E10) -/

theorem test_reset_wf : Memory.wf State.reset.cfg.font State.reset.mem = true := by decide
/-- R34 -/
theorem test_reset :
    State.reset.pc = 0x200 ∧ State.reset.sp = 0 ∧ State.reset.readByte 0x09F = 0x80 ∧ State.reset.readByte 0x0A0 = 0 ∧
    statusOf State.reset = (0, 0, 0, 0) := by decide
/-- LD-4 -/
theorem test_load_restores_font :
    let t := (withV [(5, 9)] { State.reset.writeBytes 0x050 [0x00] with sp := 3 }).load [0x12, 0x00]
    t.readByte 0x050 = 0xF0 ∧ t.readV 5 = 0 ∧ t.sp = 0 ∧ t.readByte 0x200 = 0x12 ∧ t.readByte 0x202 = 0 := by decide
/-- E10 -/
theorem test_load_then_jump :
    let t := ran (State.reset.load [0x12, 0x10])
    t.pc = 0x210 ∧ statusOf t = (0, 0x1210, 0x200, 0) := by decide
/-- A write of what an address reads as unlisted removes its entry: equal memories are equal data. -/
theorem test_memory_canonical :
    ((State.reset.writeBytes 0x050 [0x00]).writeBytes 0x050 [0xF0]).mem = [] ∧
    ((State.reset.writeBytes 0x301 [2]).writeBytes 0x300 [1]).mem = [(0x300, 1), (0x301, 2)] := by decide

/-- R103: in LD_CLEAR, with the first rows cleared, the framebuffer port shows the committed cells. -/
theorem test_fbPort_during_load :
    let s : State := { State.reset with fb := Vector.replicate 32 0xFFFF }
    let t := runCycles (List.replicate 5 Pins.quiet) (requestLoad 2 s)
    t.hid.ctl = .ldClear ∧ fbAt t.fb 63 0 = false ∧ t.fbPort 63 = true ∧ t.fbPort 0 = false := by decide

/-! ## The host's two questions -/

theorem test_decodeTableWord : decodeTableWord 16 0xF029 = some (.ldF 0) ∧ decodeTableWord 16 0x800F = none := by decide
theorem test_withFetchWord : (ran (State.reset.withFetchWord 16 0x7205)).readV 2 = 5 := by decide

/-! ## Witnesses: for every statement with hypotheses, a state and operands that meet them

A statement with several clauses has its clauses met here one by one, at the boundary of their ranges. -/

theorem witness_DecodeOfEncode : (Instr.drw 15 15 15).wellFormed ExtOps.none = true ∧ (Instr.ldVxK 15).wellFormed ExtOps.all = true := by
  decide
theorem witness_DecodedWordMatchesItsRow : decodeWord ExtOps.none 0x8FFE = .ok (.shl 15) := by decide
theorem witness_WordDecodesIffARowCoversIt :
    (∃ r ∈ rowsOf ExtOps.none, r.covers 0x0FF0 = true) ∧ decodeWord ExtOps.none 0x7001 = .error (.unknownTopNibble 0x7001) :=
  ⟨⟨⟨0x0000, 0xF00F, none⟩, by decide, by decide⟩, by decide⟩
theorem witness_RowsDoNotOverlap : ∃ r, (rowsOf ExtOps.all)[0]? = some r ∧ r.covers 0x0120 = true := ⟨_, rfl, by decide⟩
theorem witness_IgnoredBitsDoNotMatter :
    (decodeWord ExtOps.none 0x00E0 = .ok .cls ∧ fieldT 0x0120 = fieldT 0x00E0 ∧ fieldN 0x0120 = fieldN 0x00E0) ∧
    (decodeWord ExtOps.none 0x5120 = .ok (.seReg 1 2) ∧ fieldX 0x512F = fieldX 0x5120 ∧ fieldY 0x512F = fieldY 0x5120) ∧
    (decodeWord ExtOps.none 0x8F06 = .ok (.shr 15) ∧ fieldN 0x8FF6 = fieldN 0x8F06 ∧ fieldX 0x8FF6 = fieldX 0x8F06) := by decide

theorem witness_StepRunsTheDecodedInstruction :
    let s : State := { State.reset.writeBytes 0xFFE [0x60, 0x07] with pc := 0xFFE }
    s.busy = false ∧ s.pc.toNat ≤ 0x0FFE ∧ (Instr.ldByte 0 7).wellFormed s.cfg.extOps = true ∧
    decode s.cfg.extOps [s.readByte s.pc.toNat, s.readByte (s.pc.toNat + 1)] = .ok (.ldByte 0 7, []) := by decide
theorem witness_FetchBound :
    (({ State.reset with pc := 0xFFF } : State).busy = false ∧ 0x0FFE < ({ State.reset with pc := 0xFFF } : State).pc.toNat) ∧
    ∃ t, step { State.reset with pc := 0xFFE } = .next t := by
  exact ⟨by decide, _, rfl⟩
theorem witness_UnrecognizedWordIsReportedNoOp :
    (at200 0x7001).busy = false ∧ (at200 0x7001).fetchWord = some 0x7001 ∧
    decodeWord (at200 0x7001).cfg.extOps 0x7001 = .error (.unknownTopNibble 0x7001) := by decide
/-- For ErrorStepsArePrecise and ErrorRecursOnNextStep: each of the four precise conditions. -/
theorem witness_ErrorSteps :
    (∃ t, step { State.reset with pc := 0x1000 } = .next t ∧ t.status.code = .fetchOutOfBounds) ∧
    (∃ t, step { at200 0x2300 with sp := 16 } = .next t ∧ t.status.code = .stackOverflow) ∧
    (∃ t, step (at200 0x00EE) = .next t ∧ t.status.code = .stackUnderflow) ∧
    (∃ t, step { at200 0xD012 with idx := 0xFFF } = .next t ∧ t.status.code = .memoryOutOfBounds) :=
  ⟨⟨_, rfl, rfl⟩, ⟨_, rfl, rfl⟩, ⟨_, rfl, rfl⟩, ⟨_, rfl, rfl⟩⟩
/-- For CoreNeverHalts: an idle core whose step reports an unrecognized word, and the FSM in DONE. -/
theorem witness_CoreNeverHalts :
    (at200 0xF000).busy = false ∧ (∃ t, hostOp .step (at200 0xF000) = .next t ∧ t.status.code = .unrecognizedOpcode) ∧
    (runCycles (List.replicate 5 Pins.quiet) (requestStep (at200 0xF000))).hid.ctl = .done :=
  ⟨rfl, ⟨_, rfl, rfl⟩, by decide⟩
/-- For RequestsWhileBusyAreIgnored. -/
theorem witness_busy : (requestStep State.reset).busy = true := by decide
/-- For ConditionPriority, StatusAndLogRecordTheStep and NoInstructionReadsStatus: a step that succeeds at each boundary. -/
theorem witness_ConditionPriority :
    (∃ t, step { at200 0x2300 with sp := 15 } = .next t ∧ t.status.code = .ok) ∧
    (∃ t, step { at200 0xF033 with idx := 0xFFD } = .next t ∧ t.status.code = .ok) ∧
    (∃ t, step { at200 0xFF55 with idx := 0xFF0 } = .next t ∧ t.status.code = .ok) ∧
    (∃ t, step { at200 0xFF65 with idx := 0xFF0 } = .next t ∧ t.status.code = .ok) ∧
    (∃ t, step { at200 0xD010 with idx := 0xFFF } = .next t ∧ t.status.code = .ok) ∧
    (∃ t, step { at200 0xD011 with idx := 0xFFF } = .next t ∧ t.status.code = .ok) :=
  ⟨⟨_, rfl, rfl⟩, ⟨_, rfl, rfl⟩, ⟨_, rfl, rfl⟩, ⟨_, rfl, rfl⟩, ⟨_, rfl, rfl⟩, ⟨_, rfl, rfl⟩⟩

/-- For the encoding clause of every instruction statement: a word of each mask, in a configuration that has it. -/
theorem witness_RowDecodes :
    ((0x1FFF : Word) &&& 0xF000 = 0x1000 ∧ (0x0FFE : Word) &&& 0xF00F = 0x000E ∧ (0xFF65 : Word) &&& 0xF0FF = 0xF065) ∧
    ({ skp := true } : ExtOps).skp = true ∧ (0xEF9E : Word) &&& 0xF0FF = 0xE09E := by decide
theorem witness_CallPushesAndJumps :
    ({ State.reset with sp := 15 } : State).sp.val < 16 ∧ ({ State.reset with sp := 16 } : State).sp.val = 16 := by decide
theorem witness_RetPopsIntoPc :
    ({ State.reset with sp := 16 } : State).sp.val = (15 : Fin 16).val + 1 ∧ State.reset.sp.val = 0 := by decide
theorem witness_BcdStoresTheDigits :
    (({ at200 0xF033 with idx := 0xFFD } : State).MemOk ∧ ({ at200 0xF033 with idx := 0xFFD } : State).idx.toNat + 2 ≤ 0xFFF) ∧
    ({ at200 0xF033 with idx := 0xFFE } : State).idx.toNat + 2 > 0xFFF := ⟨⟨by unfold State.MemOk; decide, by decide⟩, by decide⟩
/-- For DumpStoresTheRegisters, LoadReadsTheRegisters: the window 0xFF0..0xFFF and the one above it. -/
theorem witness_DumpStoresTheRegisters :
    (({ State.reset with idx := 0xFF0 } : State).MemOk ∧ (0xFF0 : Word).toNat + (15 : Reg).val ≤ 0xFFF) ∧
    (0xFF1 : Word).toNat + (15 : Reg).val > 0xFFF := ⟨⟨rfl, by decide⟩, by decide⟩
theorem witness_DumpThenLoadRoundTrips :
    (∃ t m u : State, ({ State.reset with idx := 0xFF0 } : State).MemOk ∧
      exec (.dump 15) { State.reset with idx := 0xFF0 } = .next t ∧ m.cfg = t.cfg ∧ m.mem = t.mem ∧ m.idx = t.idx ∧
      exec (.load 15) m = .next u ∧ t.status.code = .ok) ∧
    ∃ t m u : State, ({ State.reset with idx := 0xFF1 } : State).MemOk ∧
      exec (.dump 15) { State.reset with idx := 0xFF1 } = .next t ∧ m.cfg = t.cfg ∧ m.mem = t.mem ∧ m.idx = t.idx ∧
      exec (.load 15) m = .next u ∧ t.status.code = .memoryOutOfBounds :=
  ⟨⟨_, _, _, rfl, rfl, rfl, rfl, rfl, rfl, rfl⟩, ⟨_, _, _, rfl, rfl, rfl, rfl, rfl, rfl, rfl⟩⟩
theorem witness_FetchSeesDumpedBytes :
    ∃ t m : State, ({ State.reset with idx := 0xFFE } : State).MemOk ∧ exec (.dump 1) { State.reset with idx := 0xFFE } = .next t ∧
      t.status.code = .ok ∧ m.cfg = t.cfg ∧ m.mem = t.mem ∧ (1 : Reg) ≤ 1 ∧ (1 : Reg).val = (0 : Reg).val + 1 ∧
      m.pc.toNat = ({ State.reset with idx := 0xFFE } : State).idx.toNat + (0 : Reg).val := by
  refine ⟨_, { State.reset with pc := 0xFFE, mem := _ }, rfl, rfl, rfl, ?_, rfl, by decide, by decide, by decide⟩
  rfl
theorem witness_DrwFlipsCoveredCells :
    (¬ 1 ≤ (0 : Fin 16).val) ∧ (1 ≤ (15 : Fin 16).val ∧ (0xFF1 : Word).toNat + (15 : Fin 16).val - 1 ≤ 0xFFF) ∧
    (1 ≤ (15 : Fin 16).val ∧ (0xFF2 : Word).toNat + (15 : Fin 16).val - 1 > 0xFFF) := by decide
theorem witness_RowFormEqualsCellForm : (63 : Nat) < 64 := by decide
theorem witness_DrawingTwiceRestores :
    ∃ t u : State, exec (.drw 0 1 5) { State.reset with idx := 0x050 } = .next t ∧ t.status.code = .ok ∧
      exec (.drw 0 1 5) t = .next u ∧ t.startX 0 = State.reset.startX 0 ∧ t.startY 1 = State.reset.startY 1 ∧ u.readV 15 = 1 :=
  ⟨_, _, rfl, rfl, rfl, by decide, by decide, by decide⟩
/-- For the same-cycle clauses of TimerLoads and ReadDelayTimer. -/
theorem witness_same_cycle_tick :
    let s := runCycles (List.replicate 4 Pins.quiet) (requestStep (at200 0xFF15))
    let t := runCycles (List.replicate 4 Pins.quiet) (requestStep (at200 0xFF18))
    let u := runCycles (List.replicate 4 Pins.quiet) (requestStep (at200 0xFF07 { ldVxDt := true }))
    (s.hid.ctl = .ex1 ∧ s.current = .ok (.ldDT 15)) ∧ (t.hid.ctl = .ex1 ∧ t.current = .ok (.ldST 15)) ∧
    (u.hid.ctl = .ex1 ∧ u.current = .ok (.ldVxDT 15)) := by decide
/-- For the sample clauses of RandomByteIsMasked and SkipOnKey, and both cases of WaitForKey. -/
theorem witness_samples :
    (State.reset.supplyRnd 0xA7).env.rnd = 0xA7 :: [] ∧ (State.reset.supplyKeys 0x8000).env.keys = 0x8000 :: [] ∧
    (State.reset.supplyKeys 0).keysSample = 0 ∧ (State.reset.supplyKeys 0x8000).keysSample ≠ 0 := by decide
theorem witness_LoadCopiesTheRom :
    (State.reset.busy = false ∧ 3584 < (List.replicate 3585 (0 : Byte)).length) ∧
    (List.replicate 3584 (0 : Byte)).length ≤ 3584 ∧ ([] : List Byte).length ≤ 3584 :=
  ⟨⟨rfl, by rw [List.length_replicate]; omega⟩, by rw [List.length_replicate], by decide⟩
theorem witness_LoadThenJump : State.reset.busy = false ∧ (List.replicate 3582 (0 : Byte)).length ≤ 3582 :=
  ⟨rfl, by rw [List.length_replicate]⟩
/-- For EveryHostOperationKeepsTheInvariant: reset meets the invariant, and so does a state that has reported a condition. -/
theorem witness_EveryHostOperationKeepsTheInvariant :
    State.reset.Inv ∧ (ran { State.reset with pc := 0x1002 }).Inv ∧ ∃ t, hostOp .step State.reset = .next t :=
  ⟨⟨rfl, fun _ => by decide, ⟨fun _ => by decide, by decide, by decide⟩, fun h => absurd rfl h⟩,
   ⟨rfl, fun _ => by decide, ⟨fun _ => by decide, by decide, by decide⟩, fun _ => rfl⟩, _, rfl⟩
theorem witness_OnlyTheirInstructionsWriteMemoryAndFramebuffer :
    (∃ t, step (withV [(0, 7)] { at200 0xF055 with idx := 0xFFF }) = .next t ∧
      t.readByte 0xFFF ≠ (withV [(0, 7)] { at200 0xF055 with idx := 0xFFF }).readByte 0xFFF) ∧
    (∃ t, step (withV [(0, 7)] { at200 0xF033 with idx := 0xFFD }) = .next t ∧
      t.readByte 0xFFF ≠ (withV [(0, 7)] { at200 0xF033 with idx := 0xFFD }).readByte 0xFFF) ∧
    ∃ t, step { at200 0xD011 with idx := 0x050 } = .next t ∧
      t.fbRead 3 ≠ ({ at200 0xD011 with idx := 0x050 } : State).fbRead 3 :=
  ⟨⟨_, rfl, by decide⟩, ⟨_, rfl, by decide⟩, ⟨_, rfl, by decide⟩⟩
theorem witness_OnlyTheirInstructionsWriteStackIndexAndTimers :
    (∃ t, step (at200 0x2300) = .next t ∧ t.sp ≠ (at200 0x2300).sp) ∧ (∃ t, step (at200 0xAFFF) = .next t ∧ t.idx ≠ (at200 0xAFFF).idx) ∧
    (∃ t, step (withV [(3, 60)] (at200 0xF315)) = .next t ∧ t.dt ≠ 0) ∧
    ∃ t, step (withV [(3, 60)] (at200 0xF318)) = .next t ∧ t.st ≠ 0 :=
  ⟨⟨_, rfl, by decide⟩, ⟨_, rfl, by decide⟩, ⟨_, rfl, by decide⟩, ⟨_, rfl, by decide⟩⟩
theorem witness_TimersAreUnreadByDefault :
    (at200 0xF315).cfg.extOps.ldVxDt = false ∧ ∃ t, step (at200 0xF315) = .next t := ⟨rfl, _, rfl⟩
theorem witness_StaleStackEntriesAreUnobservable :
    let s : State := { at200 0x00EE with sp := 1 }
    let stk := s.stk.set 15 0x202
    (∀ k : Fin 16, k.val < s.sp.val → stk.get k = s.stk.get k) ∧ stk ≠ s.stk := by decide
/-- For the statements about the FSM: a step of the most cycles it can take, and a tick in its last cycle before `done`. -/
theorem witness_FsmComputesTheAtomicStep :
    (at200 0xD01F).busy = false ∧ (at200 0xD01F).stepCycles = 51 ∧ 49 + 1 < (at200 0xD01F).stepCycles ∧
    (at200 0x00E0).stepCycles = 38 ∧ ({ State.reset with pc := 0xFFF } : State).stepCycles = 3 := by decide
theorem witness_FramebufferReadsOldOrNewWhileBusy :
    let s : State := { at200 0x00E0 with fb := Vector.replicate 32 0xFFFF }
    s.busy = false ∧ 20 + 1 ≤ s.stepCycles ∧ (∃ t, step s = .next t) ∧
    (runCycles (List.replicate 20 Pins.quiet) (requestStep s)).fbPort 63 = false ∧
    (runCycles (List.replicate 20 Pins.quiet) (requestStep s)).fbPort 2047 = true :=
  ⟨by decide, by decide, ⟨_, rfl⟩, by decide, by decide⟩
/-- For FramebufferReadsAreCommittedDuringALoad: a load under way, with a tick and a request that is ignored, and a load too large
in its ERR cycle. -/
theorem witness_FramebufferReadsAreCommittedDuringALoad :
    (let ps : List Pins := [Pins.quiet, { tick := true }, { stepReq := true, loadReq := true, loadLen := 7 }]
     (∀ p ∈ ps, p.rst = false) ∧
     ∀ m : Fin 4, (runCycles (ps.take m.val) (requestLoad 2 State.reset)).hid.ctl ≠ .done) ∧
    (runCycles [Pins.quiet] (requestLoad 3585 State.reset)).hid.ctl = .err ∧
    State.reset.busy = false ∧ ([0x12, 0x00] : List Byte).length ≤ 3584 := by decide
theorem witness_FsmComputesTheLoad :
    State.reset.MemOk ∧ State.reset.busy = false ∧ (List.replicate 3584 (0 : Byte)).length ≤ 3584 ∧
    (3584 < (3585 : BitVec 32).toNat ∧ (List.replicate 3585 (0 : Byte)).length = (3585 : BitVec 32).toNat) :=
  ⟨rfl, rfl, by rw [List.length_replicate], by decide, by rw [List.length_replicate]; decide⟩

end Sys2Proof.Tests
end

section
/-! SUPPORT. The statements about the step cycle: a step that reports a condition (spec/40_step_cycle.md R115, R116) and a
request made while busy (R102). -/

namespace Sys2Proof.Machine

/-! ## What a report keeps -/

/-- The only parts a report and a move of PC can change are PC, STATUS and the log. -/
theorem keeps_report_setPc {w : Touches} {a : Word} {s : State} (hpc : w.pc = false → a = s.pc) (hlog : w.log = true)
    (r : Status) : Keeps w s ((s.setPc a).report r) :=
  ⟨rfl, rfl, fun _ _ => rfl, fun _ => rfl, hpc, fun _ => ⟨rfl, fun _ => rfl⟩, fun _ => rfl, fun _ => rfl, fun _ _ => rfl,
    fun _ _ => rfl, fun h => absurd (hlog.symm.trans h) (by decide), fun _ => rfl⟩

/-- The error commit undoes the fetch's advance of PC (R116). -/
theorem keeps_raise_latch (w : Word) (c : Code) (ea : Nat) (s : State) :
    Keeps { log := true } { s with hid := ((s.latch w).raise c ea).hid } ((s.latch w).raise c ea) :=
  keeps_report_setPc (fun _ => rfl) rfl _

theorem keeps_fetchFault (s : State) : Keeps { log := true } { s with hid := s.fetchFault.hid } s.fetchFault :=
  keeps_report_setPc (fun _ => rfl) rfl _

/-- An unrecognized word keeps the fetch's advance of PC (R115). -/
theorem keeps_unrecognized_latch (w : Word) (s : State) :
    Keeps { pc := true, log := true } { s with hid := (s.latch w).unrecognized.hid } (s.latch w).unrecognized :=
  keeps_report_setPc (fun h => absurd h (by decide)) rfl _

/-! ## The conditions and their effective addresses -/

/-- An effective address of R55 and R110 fits the 17 bits of `STATUS.ea`. -/
theorem toNat_ofNat_max_memSize (a : Word) : (BitVec.ofNat 17 (max a.toNat 0x1000)).toNat = max a.toNat 0x1000 := by
  have := a.isLt
  rw [BitVec.toNat_ofNat, Nat.mod_eq_of_lt (by omega)]

/-- DRW's guard fails only on a window that starts at I (R55, R211). -/
theorem drawFault_eq_some {s : State} {n : Fin 16} {ea : Nat} (h : s.drawFault n = some ea) : ea = max s.idx.toNat 0x1000 := by
  unfold State.drawFault at h
  split at h
  · cases h
  · exact ((State.windowFault_eq_some ..).1 h).2

/-- A guard over a window (guardOf) names MemoryOutOfBounds and passes on the `ea` of the window check. -/
theorem map_memoryOutOfBounds_eq_some {o : Option Nat} {c : Code} {ea : Nat} :
    (o.map fun a => (Code.memoryOutOfBounds, a)) = some (c, ea) ↔ c = .memoryOutOfBounds ∧ o = some ea := by
  cases o <;> simp [eq_comm]

/-- What a failing guard reports: a stack condition with `ea` 0, or MemoryOutOfBounds with the lowest address above 0xFFF of a
window that starts at I (R55, R141, R142). -/
theorem guardOf_eq_some {i : Instr} {s : State} {c : Code} {ea : Nat} (h : guardOf i s = some (c, ea)) :
    ((c = .stackOverflow ∨ c = .stackUnderflow) ∧ ea = 0) ∨ (c = .memoryOutOfBounds ∧ ea = max s.idx.toNat 0x1000) := by
  cases i
  case call | ret =>
    obtain ⟨-, he⟩ := Option.ite_none_right_eq_some.1 h
    cases he
    simp
  case ldB | dump | load =>
    obtain ⟨hc, hw⟩ := map_memoryOutOfBounds_eq_some.1 h
    exact .inr ⟨hc, ((State.windowFault_eq_some ..).1 hw).2⟩
  case drw =>
    obtain ⟨hc, hd⟩ := map_memoryOutOfBounds_eq_some.1 h
    exact .inr ⟨hc, drawFault_eq_some hd⟩
  all_goals cases h

/-- How a step ends with a condition other than UnrecognizedOpcode: the fetch bound, or the guard of the decoded instruction
(R116, R301). -/
theorem errorStep_cases {s t : State} (hb : s.busy = false) (h : step s = .next t) (hok : t.status.code ≠ .ok)
    (hun : t.status.code ≠ .unrecognizedOpcode) :
    (s.fetchWord = none ∧ t = s.fetchFault) ∨
    ∃ w i c ea, s.fetchWord = some w ∧ decodeWord s.cfg.extOps w = .ok i ∧ guardOf i (s.latch w) = some (c, ea) ∧
      t = (s.latch w).raise c ea := by
  rcases step_cases h with ⟨hb', -⟩ | ⟨-, hf, ht⟩ | ⟨-, w, r, -, -, rfl⟩ | ⟨-, w, i, hw, hi, ht⟩
  · simp [hb] at hb'
  · exact .inl ⟨hf, ht⟩
  · exact absurd rfl hun
  · match hg : guardOf i (s.latch w) with
    | none =>
      rw [ht, outcome_of_guard_none hg] at hok
      exact absurd rfl hok
    | some (c, ea) => exact .inr ⟨w, i, c, ea, hw, hi, hg, ht.trans (outcome_of_guard_some hg)⟩

/-- Settles O11, by the two ways in which a step can end with such a condition. -/
theorem errorStepsArePrecise : Obligations.ErrorStepsArePrecise := by
  intro s t hb h hok hun
  rcases errorStep_cases hb h hok hun with ⟨-, rfl⟩ | ⟨w, i, c, ea, hw, -, hg, rfl⟩
  · exact ⟨.inl rfl, rfl, rfl, toNat_ofNat_max_memSize s.pc, keeps_fetchFault s⟩
  · obtain ⟨-, rfl⟩ := (fetchWord_eq_some s w).1 hw
    rcases guardOf_eq_some hg with ⟨rfl | rfl, rfl⟩ | ⟨rfl, rfl⟩
    · exact ⟨.inr (.inl rfl), rfl, rfl, rfl, keeps_raise_latch ..⟩
    · exact ⟨.inr (.inr (.inl rfl)), rfl, rfl, rfl, keeps_raise_latch ..⟩
    · exact ⟨.inr (.inr (.inr rfl)), rfl, rfl, toNat_ofNat_max_memSize s.idx, keeps_raise_latch ..⟩

/-- Settles O10: the step is the report of the latched state. -/
theorem unrecognizedWordIsReportedNoOp : Obligations.UnrecognizedWordIsReportedNoOp := by
  intro s w r hb hw hr
  exact ⟨_, step_of_unrecognized hb hw hr, rfl, rfl, rfl, keeps_unrecognized_latch w s⟩

/-! ## Requests while busy (R102) -/

theorem step_of_busy {s : State} (hb : s.busy = true) : step s = .next s := by simp [step, hb]

theorem load_of_busy {s : State} (hb : s.busy = true) (bytes : List Byte) : s.load bytes = s := by simp [State.load, hb]

theorem busy_eq_true_iff (s : State) : s.busy = true ↔ s.hid.ctl ≠ .idle := by simp [State.busy]

/-- Of the pins a busy FSM looks only at those that carry load bytes; IDLE alone reads the request lines. -/
theorem fsmNext_congr_of_busy {s : State} (hb : s.busy = true) {p q : Pins} (hv : p.loadValid = q.loadValid)
    (hd : p.loadByte = q.loadByte) : fsmNext p s = fsmNext q s := by
  cases hc : s.hid.ctl
  case idle => exact absurd hc ((busy_eq_true_iff s).1 hb)
  case ldCopy => simp only [fsmNext, hc, fsmLdCopy, hv, hd]
  all_goals simp only [fsmNext, hc]

/-- Settles O14: Step and Load answer a busy state itself, and a busy FSM reads no request line. -/
theorem requestsWhileBusyAreIgnored : Obligations.RequestsWhileBusyAreIgnored := by
  intro s bytes hb
  refine ⟨step_of_busy hb, ?_, fun p stepReq loadReq len => fsmNext_congr_of_busy hb rfl rfl⟩
  simp only [hostOp, load_of_busy hb]

end Sys2Proof.Machine
end

section
/-! SUPPORT. The statements about control flow (spec/41_control_flow.md), over three layers they share with the other
instructions: the words of a row, the two ways an instruction ends, and what each state operation keeps. -/

namespace Sys2Proof.Machine

open Sys2Proof.Laws.Canonical (and_F000 and_F00F)

/-! ## The words of a row (R71, R75) -/

/-- The mask `0xF000` fixes the top nibble. -/
theorem fieldT_of_and_F000 {w mat : Word} (h : w &&& 0xF000 = mat) : (fieldT w).val = mat.toNat / 4096 := by
  have := w.isLt
  rw [fieldT_val, ← h, and_F000]
  omega

/-- The mask `0xF00F` fixes the top nibble and the low nibble. -/
theorem fields_of_and_F00F {w mat : Word} (h : w &&& 0xF00F = mat) :
    (fieldT w).val = mat.toNat / 4096 ∧ (fieldN w).val = mat.toNat % 16 := by
  have := w.isLt
  rw [fieldT_val, fieldN_val, ← h, and_F00F]
  omega

/-- A row with the mask `0xF000` is known by its top nibble alone (R72). -/
theorem rowDecodes_F000 {mat : Word} {ok : ExtOps → Bool} {i : Word → Instr}
    (h : ∀ e w, ok e = true → (fieldT w).val = mat.toNat / 4096 → decodeWord e w = .ok (i w)) : RowDecodes 0xF000 mat ok i :=
  fun e w he hw => h e w he (fieldT_of_and_F000 hw)

/-- A row with the mask `0xF00F` is known by its top nibble and its low nibble (R73, R74). -/
theorem rowDecodes_F00F {mat : Word} {ok : ExtOps → Bool} {i : Word → Instr}
    (h : ∀ e w, ok e = true → (fieldT w).val = mat.toNat / 4096 → (fieldN w).val = mat.toNat % 16 →
      decodeWord e w = .ok (i w)) : RowDecodes 0xF00F mat ok i :=
  fun e w he hw => h e w he (fields_of_and_F00F hw).1 (fields_of_and_F00F hw).2

/-! ## How an instruction ends (R113, R116) -/

/-- An instruction whose guard passes commits its effect. -/
theorem completes_of_guard_none {i : Instr} {s : State} (h : guardOf i s = none) : Completes i s (effect i s).commitOk :=
  ⟨by rw [exec_eq, outcome_of_guard_none h], by simp [okStatus]⟩

/-- An instruction whose guard fails raises the condition of its guard. -/
theorem raises_of_guard_some {i : Instr} {s : State} {c : Code} {ea : Nat} (h : guardOf i s = some (c, ea)) :
    Raises i s c ea :=
  ⟨s.raise c ea, by rw [exec_eq, outcome_of_guard_some h], rfl, rfl, rfl, keeps_report_setPc (fun hf => absurd hf (by decide)) rfl _⟩

/-! ## What an operation keeps -/

section
variable {w : Touches} {s t : State}

theorem Keeps.refl (w : Touches) (s : State) : Keeps w s s := by simp [Keeps]

/-- The successful commit writes STATUS alone, of which a frame does not speak. -/
theorem Keeps.commitOk (h : Keeps w s t) : Keeps w s t.commitOk := h

theorem Keeps.setPc (h : Keeps w s t) (hw : w.pc = true) (a : Word) : Keeps w s (t.setPc a) :=
  let ⟨hcfg, hhid, hregs, hidx, _, hrest⟩ := h
  ⟨hcfg, hhid, hregs, hidx, fun hf => (nomatch hw.symm.trans hf), hrest⟩

/-- A skip is a move of PC. -/
theorem Keeps.skipIf (h : Keeps w s t) (hw : w.pc = true) (c : Bool) : Keeps w s (t.skipIf c) :=
  h.setPc hw _

theorem Keeps.push (h : Keeps w s t) (hw : w.stack = true) (a : Word) : Keeps w s (t.push a) :=
  let ⟨hcfg, hhid, hregs, hidx, hpc, _, hrest⟩ := h
  ⟨hcfg, hhid, hregs, hidx, hpc, fun hf => (nomatch hw.symm.trans hf), hrest⟩

theorem Keeps.dropTop (h : Keeps w s t) (hw : w.stack = true) : Keeps w s t.dropTop :=
  let ⟨hcfg, hhid, hregs, hidx, hpc, _, hrest⟩ := h
  ⟨hcfg, hhid, hregs, hidx, hpc, fun hf => (nomatch hw.symm.trans hf), hrest⟩

end

/-- What a skip leaves: PC as its comparison says, all else as before (R143). -/
theorem completes_skip {i : Instr} {s : State} {c : Bool} {a : Word} (hg : guardOf i s = none) (he : effect i s = s.skipIf c)
    (ha : (if c then s.pc + 2 else s.pc) = a) : ∃ t, Completes i s t ∧ t.pc = a ∧ Keeps { pc := true } s t := by
  refine ⟨_, completes_of_guard_none hg, ?_, ?_⟩ <;> rw [he]
  · exact ha
  · exact ((Keeps.refl _ s).skipIf rfl c).commitOk

/-! ## The stack and the embedded address (R27, R79) -/

theorem zextAddr_toNat (nnn : Addr) : (zextAddr nnn).toNat = nnn.toNat :=
  BitVec.toNat_setWidth_of_le (by decide)

theorem sp_push {s : State} (h : s.sp.val < 16) (a : Word) : (s.push a).sp.val = s.sp.val + 1 :=
  Nat.mod_eq_of_lt (by omega)

theorem stk_get_push (s : State) (a : Word) (k : Fin 16) :
    (s.push a).stk.get k = if k.val = s.sp.val then a else s.stk.get k := by
  simp only [State.push_stk, Vector.get_eq_getElem, Vector.getElem_setIfInBounds, eq_comm]

theorem sp_dropTop {s : State} {n : Nat} (h : s.sp.val = n + 1) : s.dropTop.sp.val = n := by
  have := s.sp.isLt
  rw [State.dropTop_sp, h]
  exact Nat.mod_eq_of_lt (by omega)

theorem top_eq_get {s : State} {k : Fin 16} (h : s.sp.val = k.val + 1) : s.top = s.stk.get k := by
  simp [State.top, h, Vector.get_eq_getElem]

/-! ## The statements -/

/-- Settles O18: the guard is `SP = 16`; below it CALL is a push and a jump. -/
theorem callPushesAndJumps : Obligations.CallPushesAndJumps := by
  refine ⟨rowDecodes_F000 fun e w _ ht => by simp [decodeWord, ht], fun nnn s hsp => ?_, fun nnn s hsp => ?_⟩
  · have hg : guardOf (.call nnn) s = none := if_neg hsp.ne
    exact ⟨_, completes_of_guard_none hg, zextAddr_toNat nnn, sp_push hsp s.pc, stk_get_push s s.pc,
      (((Keeps.refl _ s).push rfl s.pc).setPc rfl _).commitOk⟩
  · exact raises_of_guard_some (if_pos hsp)

/-- Settles O19: the guard is `SP = 0`; above it RET jumps to the top entry and drops it. -/
theorem retPopsIntoPc : Obligations.RetPopsIntoPc := by
  refine ⟨rowDecodes_F00F fun e w _ ht hn => by simp [decodeWord, decodeFamily0, ht, hn], fun s k hsp => ?_, fun s hsp => ?_⟩
  · have hg : guardOf .ret s = none := if_neg (by omega)
    exact ⟨_, completes_of_guard_none hg, top_eq_get hsp, sp_dropTop hsp, fun _ => rfl,
      (((Keeps.refl _ s).dropTop rfl).setPc rfl _).commitOk⟩
  · exact raises_of_guard_some (if_pos hsp)

/-- Settles O17: JP has no guard, and its effect is the move of PC. -/
theorem jpSetsPc : Obligations.JpSetsPc :=
  ⟨rowDecodes_F000 fun e w _ ht => by simp [decodeWord, ht],
    fun nnn s => ⟨_, completes_of_guard_none rfl, zextAddr_toNat nnn, ((Keeps.refl _ s).setPc rfl _).commitOk⟩⟩

/-- Settles O20: both skips have no guard, and their effect is `skipIf` on the comparison. -/
theorem skipOnImmediate : Obligations.SkipOnImmediate :=
  ⟨rowDecodes_F000 fun e w _ ht => by simp [decodeWord, ht], rowDecodes_F000 fun e w _ ht => by simp [decodeWord, ht],
    fun _ _ _ => completes_skip rfl rfl (by simp), fun _ _ _ => completes_skip rfl rfl (by simp)⟩

/-- Settles O21: as O20, with a register for the byte. -/
theorem skipOnRegister : Obligations.SkipOnRegister :=
  ⟨rowDecodes_F000 fun e w _ ht => by simp [decodeWord, ht], rowDecodes_F000 fun e w _ ht => by simp [decodeWord, ht],
    fun _ _ _ => completes_skip rfl rfl (by simp), fun _ _ _ => completes_skip rfl rfl (by simp)⟩

end Sys2Proof.Machine
end

section
/-! SUPPORT. The statements about registers and arithmetic (spec/42_register_arith.md). Every instruction of the family ends in
one of two writes, `writeV` or `writeResultFlag`: one lemma for each says what it leaves, and the results and flags are given
as numbers. -/

namespace Sys2Proof.Machine

/-! ## Family 0x8 (R74) -/

/-- A row of family 0x8 is what its low nibble selects. -/
theorem rowDecodes_family8 {mat : Word} {i : Word → Instr} (hmat : mat.toNat / 4096 = 8)
    (h : ∀ w, (fieldN w).val = mat.toNat % 16 → decodeFamily8 w = .ok (i w)) : RowDecodes 0xF00F mat (fun _ => true) i :=
  rowDecodes_F00F fun e w _ ht hn => by simp only [decodeWord, ht, hmat, h w hn]

/-! ## What a register write keeps -/

section
variable {w : Touches} {s t : State}

theorem Keeps.writeV (h : Keeps w s t) (hw : w.regs = true) (x : Reg) (b : Byte) : Keeps w s (t.writeV x b) :=
  let ⟨hcfg, hhid, _, hrest⟩ := h
  ⟨hcfg, hhid, fun hf => (nomatch hw.symm.trans hf), hrest⟩

theorem Keeps.writeResultFlag (h : Keeps w s t) (hw : w.regs = true) (x : Reg) (res flag : Byte) :
    Keeps w s (t.writeResultFlag x res flag) :=
  (h.writeV hw x res).writeV hw vf flag

end

/-! ## The two ways to end -/

section
variable {i : Instr} {s : State} {x : Reg} {b res flag : Byte}

/-- What an instruction leaves whose effect is one register write: no flag (R163 to R167). -/
theorem completes_writeV (hg : guardOf i s = none) (he : effect i s = s.writeV x b) :
    ∃ t, Completes i s t ∧ (∀ r, t.readV r = if r = x then b else s.readV r) ∧ Keeps { regs := true } s t := by
  refine ⟨_, completes_of_guard_none hg, fun r => ?_, ?_⟩ <;> rw [he]
  · rw [State.readV_commitOk, State.readV_writeV]
  · exact ((Keeps.refl _ s).writeV rfl x b).commitOk

/-- As `completes_writeV`, with the byte written given bit by bit. -/
theorem completes_writeV_bits {bits : Nat → Bool} (hg : guardOf i s = none) (he : effect i s = s.writeV x b)
    (hb : ∀ k, b.getLsbD k = bits k) :
    ∃ t, Completes i s t ∧ (∀ r, r ≠ x → t.readV r = s.readV r) ∧ (∀ k, (t.readV x).getLsbD k = bits k) ∧
      Keeps { regs := true } s t := by
  obtain ⟨t, hc, hr, hk⟩ := completes_writeV hg he
  exact ⟨t, hc, fun r hne => by rw [hr, if_neg hne], fun k => by rw [hr, if_pos rfl, hb], hk⟩

/-- What an instruction leaves whose effect is a result and a flag, seen through a reading `f` of bytes as numbers: VF holds
the flag, also where it is the destination (R162). -/
theorem completes_writeResultFlag {α : Type} (f : Byte → α) {resVal flagVal : α} (hg : guardOf i s = none)
    (he : effect i s = s.writeResultFlag x res flag) (hflag : f flag = flagVal) (hres : f res = resVal) :
    ∃ t, Completes i s t ∧
      (∀ r, f (t.readV r) = if r = vf then flagVal else if r = x then resVal else f (s.readV r)) ∧
      Keeps { regs := true } s t := by
  refine ⟨_, completes_of_guard_none hg, fun r => ?_, ?_⟩ <;> rw [he]
  · rw [State.readV_commitOk, State.readV_writeResultFlag, apply_ite f, apply_ite f, hflag, hres]
  · exact ((Keeps.refl _ s).writeResultFlag rfl x res flag).commitOk

end

/-! ## Results and flags as numbers -/

section
variable (a b : Byte)

theorem flagByte_toNat (c : Bool) : (flagByte c).toNat = if c then 1 else 0 := by
  cases c <;> rfl

theorem addResult_toNat : (addResult a b).toNat = (a.toNat + b.toNat) % 256 := BitVec.toNat_ofNat ..

theorem carryFlag_toNat : (carryFlag a b).toNat = if a.toNat + b.toNat > 255 then 1 else 0 := by
  simp only [carryFlag, flagByte_toNat, decide_eq_true_eq]

/-- `(a + 256 - b) mod 256` over the naturals is the difference over the integers mod 256 (R169). -/
theorem subResult_toInt : ((subResult a b).toNat : Int) = ((a.toNat : Int) - (b.toNat : Int)) % 256 := by
  have hnat : (subResult a b).toNat = (a.toNat + 256 - b.toNat) % 256 := BitVec.toNat_ofNat ..
  have := b.isLt
  omega

theorem noBorrowFlag_toInt : ((noBorrowFlag a b).toNat : Int) = if a.toNat ≥ b.toNat then 1 else 0 := by
  simp only [noBorrowFlag, flagByte_toNat, decide_eq_true_eq, ge_iff_le, Nat.cast_ite, Nat.cast_one, Nat.cast_zero]

theorem shrResult_toNat : (shrResult a).toNat = a.toNat / 2 := by
  rw [shrResult, BitVec.toNat_ushiftRight, Nat.shiftRight_eq_div_pow]

theorem shrFlag_toNat : (shrFlag a).toNat = a.toNat % 2 :=
  Nat.and_one_is_mod a.toNat

theorem shlResult_toNat : (shlResult a).toNat = a.toNat * 2 % 256 := BitVec.toNat_ofNat ..

theorem shlFlag_toNat : (shlFlag a).toNat = a.toNat / 128 := by
  rw [shlFlag, BitVec.toNat_ushiftRight, Nat.shiftRight_eq_div_pow]

end

/-! ## The statements -/

/-- Settles O24: the effect is the sum and then the carry. -/
theorem addSetsSumAndCarry : Obligations.AddSetsSumAndCarry :=
  ⟨rowDecodes_family8 rfl fun w hn => by simp [decodeFamily8, hn],
    fun _ _ _ => completes_writeResultFlag BitVec.toNat rfl rfl (carryFlag_toNat ..) (addResult_toNat ..)⟩

/-- Settles O25: the two directions are one difference with its operands exchanged. -/
theorem subtractionsSetNoBorrow : Obligations.SubtractionsSetNoBorrow :=
  ⟨rowDecodes_family8 rfl fun w hn => by simp [decodeFamily8, hn],
    rowDecodes_family8 rfl fun w hn => by simp [decodeFamily8, hn],
    fun x y s => completes_writeResultFlag (fun c => (c.toNat : Int)) rfl rfl (noBorrowFlag_toInt (s.readV x) (s.readV y))
      (subResult_toInt (s.readV x) (s.readV y)),
    fun x y s => completes_writeResultFlag (fun c => (c.toNat : Int)) rfl rfl (noBorrowFlag_toInt (s.readV y) (s.readV x))
      (subResult_toInt (s.readV y) (s.readV x))⟩

/-- Settles O26: the effect is the shifted value and then the bit shifted out, both of the old Vx. -/
theorem shiftsSetTheBitShiftedOut : Obligations.ShiftsSetTheBitShiftedOut :=
  ⟨rowDecodes_family8 rfl fun w hn => by simp [decodeFamily8, hn],
    rowDecodes_family8 rfl fun w hn => by simp [decodeFamily8, hn],
    fun _ _ => completes_writeResultFlag BitVec.toNat rfl rfl (shrFlag_toNat _) (shrResult_toNat _),
    fun _ _ => completes_writeResultFlag BitVec.toNat rfl rfl (shlFlag_toNat _) (shlResult_toNat _)⟩

/-- Settles O22: each effect is one register write. -/
theorem loadsIntoRegisters : Obligations.LoadsIntoRegisters :=
  ⟨rowDecodes_F000 fun e w _ ht => by simp [decodeWord, ht], rowDecodes_family8 rfl fun w hn => by simp [decodeFamily8, hn],
    fun _ _ _ => completes_writeV rfl rfl, fun _ _ _ => completes_writeV rfl rfl⟩

/-- Settles O23: each effect is one register write, whose bits are those of the operation. -/
theorem bitwiseOperations : Obligations.BitwiseOperations :=
  ⟨rowDecodes_family8 rfl fun w hn => by simp [decodeFamily8, hn],
    rowDecodes_family8 rfl fun w hn => by simp [decodeFamily8, hn],
    rowDecodes_family8 rfl fun w hn => by simp [decodeFamily8, hn],
    fun _ _ _ => ⟨completes_writeV_bits rfl rfl fun _ => BitVec.getLsbD_or,
      completes_writeV_bits rfl rfl fun _ => BitVec.getLsbD_and,
      completes_writeV_bits rfl rfl fun _ => BitVec.getLsbD_xor⟩⟩

end Sys2Proof.Machine
end

section
/-! SUPPORT. The statements about memory and the index register (spec/43_memory_index.md). The three transfers share one guard,
the window check from I on (R191), and the two that store share one effect, `writeBytes` at I: one lemma for each says what it
leaves. -/

namespace Sys2Proof.Machine

open Sys2Proof.Laws.Canonical (and_F0FF)

/-! ## Family 0xF (R74) -/

/-- The mask `0xF0FF` fixes the top nibble and the low byte. -/
theorem fields_of_and_F0FF {w mat : Word} (h : w &&& 0xF0FF = mat) :
    (fieldT w).val = mat.toNat / 4096 ∧ (fieldNN w).toNat = mat.toNat % 256 := by
  have := w.isLt
  rw [fieldT_val, fieldNN_toNat, ← h, and_F0FF]
  omega

/-- A row of family 0xF is what its low byte selects. -/
theorem rowDecodes_familyF {mat : Word} {ok : ExtOps → Bool} {i : Word → Instr} (hmat : mat.toNat / 4096 = 15)
    (h : ∀ e w, ok e = true → (fieldNN w).toNat = mat.toNat % 256 → decodeFamilyF e w = .ok (i w)) :
    RowDecodes 0xF0FF mat ok i := by
  intro e w he hw
  obtain ⟨ht, hnn⟩ := fields_of_and_F0FF hw
  simp only [decodeWord, ht, hmat, h e w he hnn]

/-! ## What the writes of the family keep -/

section
variable {w : Touches} {s t : State}

theorem Keeps.setIdx (h : Keeps w s t) (hw : w.idx = true) (a : Word) : Keeps w s (t.setIdx a) :=
  let ⟨hcfg, hhid, hregs, _, hrest⟩ := h
  ⟨hcfg, hhid, hregs, fun hf => (nomatch hw.symm.trans hf), hrest⟩

theorem Keeps.loadRegs (h : Keeps w s t) (hw : w.regs = true) (x : Reg) : Keeps w s (t.loadRegs x) :=
  let ⟨hcfg, hhid, _, hrest⟩ := h
  ⟨hcfg, hhid, fun hf => (nomatch hw.symm.trans hf), hrest⟩

theorem Keeps.writeBytes (h : Keeps w s t) (hw : w.mem = true) (a : Nat) (bs : List Byte) : Keeps w s (t.writeBytes a bs) :=
  let ⟨hcfg, hhid, hregs, hidx, hpc, hstk, hdt, hst, hfb, _, hrest⟩ := h
  ⟨hcfg, hhid, hregs, hidx, hpc, hstk, hdt, hst, hfb, fun hf => (nomatch hw.symm.trans hf), hrest⟩

end

/-! ## The window guard (R55, R191) -/

section
variable {i : Instr} {s : State} {last : Nat}

/-- A guard over the window from I to `I + last` passes when the window lies inside memory. -/
theorem guardOf_window_eq_none (hg : guardOf i s = (s.windowFault 0 last).map fun ea => (.memoryOutOfBounds, ea))
    (hfit : s.idx.toNat + last ≤ 0xFFF) : guardOf i s = none := by
  rw [hg, (s.windowFault_eq_none 0 last).2 hfit, Option.map_none]

/-- Such a guard raises when the window reaches above 0xFFF; the window starts at I, so `ea` is I or 0x1000. -/
theorem raises_of_window (hg : guardOf i s = (s.windowFault 0 last).map fun ea => (.memoryOutOfBounds, ea))
    (hover : s.idx.toNat + last > 0xFFF) : Raises i s .memoryOutOfBounds (max s.idx.toNat 0x1000) := by
  have hw : s.windowFault 0 last = some (max s.idx.toNat 0x1000) := (s.windowFault_eq_some 0 last _).2 ⟨hover, rfl⟩
  exact raises_of_guard_some (by rw [hg, hw, Option.map_some])

end

/-! ## What a store at I leaves -/

/-- What an instruction leaves whose effect is a store at I: the bytes stored, and every byte outside the window as before. -/
theorem completes_writeBytes {i : Instr} {s : State} {bs : List Byte} (hm : s.MemOk) (hg : guardOf i s = none)
    (he : effect i s = s.writeBytes s.idx.toNat bs) (hfit : s.idx.toNat + bs.length ≤ Config.memSize) :
    ∃ t, Completes i s t ∧ (∀ k < bs.length, t.readByte (s.idx.toNat + k) = bs.getD k 0) ∧
      (∀ a, a < s.idx.toNat ∨ s.idx.toNat + bs.length ≤ a → t.readByte a = s.readByte a) ∧ Keeps { mem := true } s t := by
  refine ⟨_, completes_of_guard_none hg, fun k hk => ?_, fun a ha => ?_, ?_⟩ <;> rw [he]
  · rw [State.readByte_commitOk, State.readByte_writeBytes hm hfit, if_pos (by omega), Nat.add_sub_cancel_left]
  · rw [State.readByte_commitOk, State.readByte_writeBytes_outside s bs ha]
  · exact ((Keeps.refl _ s).writeBytes rfl _ bs).commitOk

/-- The decimal digits as numbers: each fits a byte (R192). -/
theorem map_toNat_bcdDigits (b : Byte) :
    (bcdDigits b).map BitVec.toNat = [b.toNat / 100, b.toNat / 10 % 10, b.toNat % 10] := by
  have := b.isLt
  simp only [bcdDigits, List.map_cons, List.map_nil, BitVec.toNat_ofNat, List.cons.injEq, and_true]
  omega

theorem toNat_getD_bcdDigits (b : Byte) (k : Nat) :
    ((bcdDigits b).getD k 0).toNat = [b.toNat / 100, b.toNat / 10 % 10, b.toNat % 10].getD k 0 := by
  rw [← map_toNat_bcdDigits]
  exact (List.getD_map _ 0 BitVec.toNat).symm

/-! ## The statements -/

/-- Settles O27: LD I has no guard, and its effect is the write of I. -/
theorem ldISetsIndex : Obligations.LdISetsIndex :=
  ⟨rowDecodes_F000 fun e w _ ht => by simp [decodeWord, ht],
    fun nnn s => ⟨_, completes_of_guard_none rfl, zextAddr_toNat nnn, ((Keeps.refl _ s).setIdx rfl _).commitOk⟩⟩

/-- Settles O28: the window is I to I + 2, and the effect stores the three digits there. -/
theorem bcdStoresTheDigits : Obligations.BcdStoresTheDigits := by
  refine ⟨rowDecodes_familyF rfl fun e w _ hnn => by simp [decodeFamilyF, hnn], fun x s hm hfit => ?_,
    fun x s => raises_of_window rfl⟩
  have hmem : s.idx.toNat + (bcdDigits (s.readV x)).length ≤ Config.memSize := by
    rw [length_bcdDigits, memSize_eq]; omega
  obtain ⟨t, hc, hin, hout, hk⟩ := completes_writeBytes (i := .ldB x) hm (guardOf_window_eq_none rfl hfit) rfl hmem
  rw [length_bcdDigits] at hin hout
  refine ⟨t, hc, fun a => ?_, hk⟩
  by_cases ha : s.idx.toNat ≤ a ∧ a < s.idx.toNat + 3
  · obtain ⟨k, rfl⟩ := Nat.exists_eq_add_of_le ha.1
    have hk3 : k < 3 := by omega
    rw [hin k hk3, toNat_getD_bcdDigits]
    interval_cases k <;> simp
  · rw [hout a (by omega), if_neg (by omega), if_neg (by omega), if_neg (by omega)]

/-- Settles O29: the window is I to I + x, and the effect stores V0..Vx there. -/
theorem dumpStoresTheRegisters : Obligations.DumpStoresTheRegisters := by
  refine ⟨rowDecodes_familyF rfl fun e w _ hnn => by simp [decodeFamilyF, hnn], fun x s hm hfit => ?_,
    fun x s => raises_of_window rfl⟩
  have hmem : s.idx.toNat + (s.regsUpTo x).length ≤ Config.memSize := by
    rw [s.length_regsUpTo, memSize_eq]; omega
  obtain ⟨t, hc, hin, hout, hk⟩ := completes_writeBytes (i := .dump x) hm (guardOf_window_eq_none rfl hfit) rfl hmem
  rw [s.length_regsUpTo] at hin hout
  exact ⟨t, hc, fun r hr => by rw [hin r.val (Nat.lt_succ_of_le hr), s.getD_regsUpTo x r hr], fun a ha => hout a (by omega), hk⟩

/-- Settles O30: the window is that of O29, and the effect writes V0..Vx from it. -/
theorem loadReadsTheRegisters : Obligations.LoadReadsTheRegisters :=
  ⟨rowDecodes_familyF rfl fun e w _ hnn => by simp [decodeFamilyF, hnn],
    fun x s hfit => ⟨_, completes_of_guard_none (guardOf_window_eq_none rfl hfit), fun r => State.readV_loadRegs x r s,
      ((Keeps.refl _ s).loadRegs rfl x).commitOk⟩,
    fun _ _ => raises_of_window rfl⟩

end Sys2Proof.Machine
end

section
/-! SUPPORT. The statements about the display (spec/44_display.md). What the sprite loop leaves is said of a list of rows
(`fbAt_plotSprite`, `coll_plotSprite`); here the rows are the bytes at I, the start is that of Vx and Vy, and the collision flag
is a byte in VF. -/

namespace Sys2Proof.Machine

/-! ## What the writes of the family keep -/

section
variable {w : Touches} {s t : State}

theorem Keeps.setFb (h : Keeps w s t) (hw : w.fb = true) (fb : Fb) : Keeps w s (t.setFb fb) :=
  let ⟨hcfg, hhid, hregs, hidx, hpc, hstk, hdt, hst, _, hrest⟩ := h
  ⟨hcfg, hhid, hregs, hidx, hpc, hstk, hdt, hst, fun hf => (nomatch hw.symm.trans hf), hrest⟩

/-- A draw writes the framebuffer and VF. -/
theorem Keeps.drawn (h : Keeps w s t) (hfb : w.fb = true) (hregs : w.regs = true) (k : Canvas) : Keeps w s (t.drawn k) :=
  (h.setFb hfb k.fb).writeV hregs vf _

end

/-! ## The cleared framebuffer (R210) -/

theorem fbCell_fbClear (c : Nat) : fbCell fbClear c = false := by
  rw [fbCell, fbClear, fbRow_fbClear_cell]
  exact BitVec.getLsbD_zero

/-! ## The guard of DRW (R55, R211) -/

theorem drawFault_eq_none (s : State) (n : Fin 16) :
    s.drawFault n = none ↔ (1 ≤ n.val → s.idx.toNat + n.val - 1 ≤ 0xFFF) := by
  unfold State.drawFault
  split
  case isTrue hn => simp [hn]
  case isFalse hn => rw [State.windowFault_eq_none]; omega

/-- A sprite of at least one row has the guard of a transfer, over the window from I to `I + n - 1`. -/
theorem guardOf_drw {n : Fin 16} (hn : 1 ≤ n.val) (x y : Reg) (s : State) :
    guardOf (.drw x y n) s = (s.windowFault 0 (n.val - 1)).map fun ea => (.memoryOutOfBounds, ea) := by
  simp only [guardOf, State.drawFault, if_neg (show ¬ n.val = 0 by omega)]

/-! ## The sprite at I (R53, R211) -/

theorem length_spriteBytes (s : State) (n : Nat) : (s.spriteBytes n).length = n := by
  simp [State.spriteBytes]

theorem getD_spriteBytes (s : State) {n k : Nat} (hk : k < n) : (s.spriteBytes n).getD k 0 = s.readByte (s.idx.toNat + k) := by
  simp [State.spriteBytes, List.getD_eq_getElem?_getD, hk]

/-- The start of R211 is the start of the loop. -/
theorem spriteCovers_eq (s : State) (x y : Reg) (n px py : Nat) :
    spriteCovers s x y n px py =
      (decide (s.startX x ≤ px ∧ px < s.startX x + 8 ∧ s.startY y ≤ py ∧ py < s.startY y + n) &&
        (s.readByte (s.idx.toNat + (py - s.startY y))).getLsbD (7 - (px - s.startX x))) := rfl

/-- The rows the loop of DRW draws cover the cells that R211 says the sprite covers. -/
theorem spriteBit_spriteBytes (s : State) (x y : Reg) (n px py : Nat) :
    spriteBit (s.spriteBytes n) (s.startX x) (s.startY y) px py = spriteCovers s x y n px py := by
  rw [spriteBit, length_spriteBytes, spriteCovers_eq, Bool.eq_iff_iff, Bool.and_eq_true, Bool.and_eq_true, decide_eq_true_eq]
  exact and_congr_right fun hin => by rw [getD_spriteBytes s (by omega)]

/-! ## The collision flag (R211) -/

theorem collisionFlag_eq_zero_or_one (c : Bool) : collisionFlag c = 0 ∨ collisionFlag c = 1 := by
  cases c <;> decide

theorem collisionFlag_eq_one (c : Bool) : collisionFlag c = 1 ↔ c = true := by
  cases c <;> decide

/-! ## What a draw leaves (R211) -/

section
variable (x y : Reg) (n : Fin 16) (s : State)

theorem fbAt_effect_drw {px py : Nat} (hx : px < 64) (hy : py < 32) :
    fbAt (effect (.drw x y n) s).fb px py = (fbAt s.fb px py ^^ spriteCovers s x y n.val px py) := by
  rw [← spriteBit_spriteBytes]
  exact fbAt_plotSprite _ _ _ _ hx hy

theorem readV_effect_drw {r : Reg} (hr : r ≠ vf) : (effect (.drw x y n) s).readV r = s.readV r := by
  rw [effect, State.readV_drawn, if_neg hr]

theorem readV_vf_effect_drw : (effect (.drw x y n) s).readV vf = 0 ∨ (effect (.drw x y n) s).readV vf = 1 := by
  rw [effect, State.readV_drawn, if_pos rfl]
  exact collisionFlag_eq_zero_or_one _

/-- The draw starts with the flag off, so the flag is what the sprite loop finds. -/
theorem readV_vf_effect_drw_eq_one :
    (effect (.drw x y n) s).readV vf = 1 ↔
      ∃ px py, px < 64 ∧ py < 32 ∧ spriteCovers s x y n.val px py = true ∧ fbAt s.fb px py = true := by
  rw [effect, State.readV_drawn, if_pos rfl, collisionFlag_eq_one, coll_plotSprite]
  simp only [Bool.false_eq_true, false_or, spriteBit_spriteBytes]

end

/-! ## The statements -/

/-- Settles O33: CLS has no guard, and its effect is the cleared framebuffer. -/
theorem clsClearsEveryCell : Obligations.ClsClearsEveryCell :=
  ⟨rowDecodes_F00F fun e w _ ht hn => by simp [decodeWord, decodeFamily0, ht, hn],
    fun s => ⟨_, completes_of_guard_none rfl, fun c => fbCell_fbClear c.val, ((Keeps.refl _ s).setFb rfl _).commitOk⟩⟩

/-- Settles O34: the effect is the sprite loop over the bytes at I, and the guard is the window of those bytes. -/
theorem drwFlipsCoveredCells : Obligations.DrwFlipsCoveredCells := by
  refine ⟨rowDecodes_F000 fun e w _ ht => by simp [decodeWord, ht], fun x y n s hfit => ?_, fun x y n s hn hover => ?_⟩
  · have hg : guardOf (.drw x y n) s = none := by rw [guardOf, (drawFault_eq_none s n).2 hfit, Option.map_none]
    exact ⟨_, completes_of_guard_none hg, fun px py hx hy => fbAt_effect_drw x y n s hx hy,
      fun r hr => readV_effect_drw x y n s hr, readV_vf_effect_drw x y n s, readV_vf_effect_drw_eq_one x y n s,
      ((Keeps.refl _ s).drawn rfl rfl _).commitOk⟩
  · exact raises_of_window (guardOf_drw hn x y s) (by omega)

end Sys2Proof.Machine
end

section
/-! SUPPORT. The statements about the timers (spec/45_timers.md): the two loads as instructions and as the EX_1 cycle of the
control FSM, where a tick may arrive, and the tick itself. -/

namespace Sys2Proof.Machine

/-! ## What the writes of the family keep -/

section
variable {w : Touches} {s t : State}

theorem Keeps.setDT (h : Keeps w s t) (hw : w.dt = true) (b : Byte) : Keeps w s (t.setDT b) :=
  let ⟨hcfg, hhid, hregs, hidx, hpc, hstk, _, hrest⟩ := h
  ⟨hcfg, hhid, hregs, hidx, hpc, hstk, fun hf => (nomatch hw.symm.trans hf), hrest⟩

theorem Keeps.setST (h : Keeps w s t) (hw : w.st = true) (b : Byte) : Keeps w s (t.setST b) :=
  let ⟨hcfg, hhid, hregs, hidx, hpc, hstk, hdt, _, hrest⟩ := h
  ⟨hcfg, hhid, hregs, hidx, hpc, hstk, hdt, fun hf => (nomatch hw.symm.trans hf), hrest⟩

/-- A tick writes both counters. -/
theorem Keeps.tick (h : Keeps w s t) (hdt : w.dt = true) (hst : w.st = true) : Keeps w s t.tick :=
  (h.setDT hdt (tickCounter t.dt)).setST hst (tickCounter t.st)

end

/-! ## The counters (R104, R232) -/

/-- The natural difference stops at zero, as a counter does. -/
theorem tickCounter_toNat (b : Byte) : (tickCounter b).toNat = b.toNat - 1 := by
  have := b.isLt
  unfold tickCounter
  split
  case isTrue hpos => rw [BitVec.toNat_ofNat]; omega
  case isFalse hzero => omega

theorem soundOn_eq_true (s : State) : s.soundOn = true ↔ s.st ≠ 0 := bne_iff_ne

/-! ## EX_1 (R120) -/

section
variable {s : State}

/-- EX_1 leaves the outcome of the instruction in IR, but for PC, STATUS and the log, which wait for COMMIT. -/
theorem fsmEx1_of_current {i : Instr} (hi : s.current = .ok i) :
    fsmEx1 s = { outcome i { s with pc := s.hid.pcInsn + 2 } with
      pc := s.pc, status := s.status, log := s.log,
      hid := { s.hid with pcNext := (outcome i { s with pc := s.hid.pcInsn + 2 }).pc, ctl := .commit } } := by
  simp only [fsmEx1, hi, exec_eq]

theorem fsmNext_of_ex1 (hex : s.hid.ctl = .ex1) (p : Pins) : fsmNext p s = fsmEx1 s := by
  simp only [fsmNext, hex]

theorem writesDT_of_ldDT {x : Reg} (hex : s.hid.ctl = .ex1) (hi : s.current = .ok (.ldDT x)) : s.writesDT = true := by
  simp [State.writesDT, hex, hi]

theorem writesST_of_ldST {x : Reg} (hex : s.hid.ctl = .ex1) (hi : s.current = .ok (.ldST x)) : s.writesST = true := by
  simp [State.writesST, hex, hi]

/-! ## A tick in the clock cycle of a write (R106) -/

theorem cycle_tick_dt (s : State) : (cycle { tick := true } s).dt =
    if s.writesDT then (fsmNext { tick := true } s).dt else tickCounter (fsmNext { tick := true } s).dt := rfl

theorem cycle_tick_st (s : State) : (cycle { tick := true } s).st =
    if s.writesST then (fsmNext { tick := true } s).st else tickCounter (fsmNext { tick := true } s).st := rfl

/-- The tick is dropped for DT in the cycle that loads it. -/
theorem cycle_tick_dt_of_ldDT {x : Reg} (hex : s.hid.ctl = .ex1) (hi : s.current = .ok (.ldDT x)) :
    (cycle { tick := true } s).dt = s.readV x := by
  rw [cycle_tick_dt, if_pos (writesDT_of_ldDT hex hi), fsmNext_of_ex1 hex, fsmEx1_of_current hi]
  rfl

/-- The tick is dropped for ST in the cycle that loads it. -/
theorem cycle_tick_st_of_ldST {x : Reg} (hex : s.hid.ctl = .ex1) (hi : s.current = .ok (.ldST x)) :
    (cycle { tick := true } s).st = s.readV x := by
  rw [cycle_tick_st, if_pos (writesST_of_ldST hex hi), fsmNext_of_ex1 hex, fsmEx1_of_current hi]
  rfl

end

/-! ## The statements -/

/-- Settles O37: each load has no guard, its effect is one counter write, and in its EX_1 cycle a tick is dropped. -/
theorem timerLoads : Obligations.TimerLoads :=
  ⟨rowDecodes_familyF rfl fun e w _ hnn => by simp [decodeFamilyF, hnn],
    rowDecodes_familyF rfl fun e w _ hnn => by simp [decodeFamilyF, hnn],
    fun x s => ⟨_, completes_of_guard_none rfl, rfl, ((Keeps.refl _ s).setDT rfl (s.readV x)).commitOk⟩,
    fun x s => ⟨_, completes_of_guard_none rfl, rfl, soundOn_eq_true _, ((Keeps.refl _ s).setST rfl (s.readV x)).commitOk⟩,
    fun _ _ => cycle_tick_dt_of_ldDT, fun _ _ => cycle_tick_st_of_ldST⟩

/-- Settles O38: the tick is `tickCounter` on each counter. -/
theorem tickDecrementsNonzeroCounters : Obligations.TickDecrementsNonzeroCounters :=
  fun s => ⟨s.tick, rfl, tickCounter_toNat s.dt, tickCounter_toNat s.st, rfl, (Keeps.refl _ s).tick rfl rfl⟩

end Sys2Proof.Machine
end

section
/-! SUPPORT. The statements about the members of EXT_OPS (spec/46_optional_standard.md). Beside the effects of the 25 they take
the host's samples: here is what taking one keeps, and what a sample of the keys names. -/

namespace Sys2Proof.Machine

/-! ## Family 0xE (R72, R78) -/

/-- A row of family 0xE is what its low byte selects. -/
theorem rowDecodes_familyE {mat : Word} {ok : ExtOps → Bool} {i : Word → Instr} (hmat : mat.toNat / 4096 = 14)
    (h : ∀ e w, ok e = true → (fieldNN w).toNat = mat.toNat % 256 → decodeFamilyE e w = .ok (i w)) :
    RowDecodes 0xF0FF mat ok i := by
  intro e w he hw
  obtain ⟨ht, hnn⟩ := fields_of_and_F0FF hw
  simp only [decodeWord, ht, hmat, h e w he hnn]

/-! ## What taking a sample keeps (R260, R261) -/

section
variable {w : Touches} {s t : State}

theorem Keeps.takeKeys (h : Keeps w s t) (hw : w.env = true) : Keeps w s t.takeKeys :=
  let ⟨hcfg, hhid, hregs, hidx, hpc, hstk, hdt, hst, hfb, hmem, hlog, _⟩ := h
  ⟨hcfg, hhid, hregs, hidx, hpc, hstk, hdt, hst, hfb, hmem, hlog, fun hf => (nomatch hw.symm.trans hf)⟩

theorem Keeps.takeRnd (h : Keeps w s t) (hw : w.env = true) : Keeps w s t.takeRnd :=
  let ⟨hcfg, hhid, hregs, hidx, hpc, hstk, hdt, hst, hfb, hmem, hlog, _⟩ := h
  ⟨hcfg, hhid, hregs, hidx, hpc, hstk, hdt, hst, hfb, hmem, hlog, fun hf => (nomatch hw.symm.trans hf)⟩

end

/-- A sample the host has supplied is the one a step takes. -/
theorem keysSample_of_cons {s : State} {k : BitVec 16} {ks : List (BitVec 16)} (h : s.env.keys = k :: ks) :
    s.keysSample = k := by
  rw [State.keysSample, h, List.headD_cons]

theorem rndSample_of_cons {s : State} {r : Byte} {rs : List Byte} (h : s.env.rnd = r :: rs) : s.rndSample = r := by
  rw [State.rndSample, h, List.headD_cons]

/-! ## The lowest key held (R257) -/

/-- Where some key is held, `lowestKey` is a key, it is held, and none below it is. -/
theorem lowestKey_spec {keys : BitVec 16} (h : keys ≠ 0) :
    lowestKey keys < 16 ∧ keys.getLsbD (lowestKey keys) = true ∧ ∀ k < lowestKey keys, keys.getLsbD k = false := by
  unfold lowestKey
  cases hf : (List.range 16).find? fun k => keys.getLsbD k with
  | none =>
    refine absurd (BitVec.eq_of_getLsbD_eq fun k hk => ?_) h
    simpa using List.find?_range_eq_none.1 hf k hk
  | some k =>
    obtain ⟨hheld, hmem, hlow⟩ := List.find?_range_eq_some.1 hf
    exact ⟨List.mem_range.1 hmem, hheld, fun j hj => by simpa using hlow j hj⟩

/-- A key fits the register that receives it. -/
theorem toNat_trunc8_lowestKey {keys : BitVec 16} (h : keys ≠ 0) : (trunc8 (lowestKey keys)).toNat = lowestKey keys := by
  have := (lowestKey_spec h).1
  rw [BitVec.toNat_ofNat]
  omega

/-! ## The effect of LD Vx, K (R257) -/

theorem State.writeV_readV (x : Reg) (s : State) : s.writeV x (s.readV x) = s := by
  simp [State.writeV, State.readV, Vector.get_eq_getElem]

/-- With no key held the instruction is fetched again. -/
theorem effect_ldVxK_of_no_key {s : State} (h : s.keysSample = 0) (x : Reg) :
    effect (.ldVxK x) s = s.takeKeys.setPc s.hid.pcInsn := by
  simp only [effect, h, if_true]
  exact State.writeV_readV x (s.takeKeys.setPc s.hid.pcInsn)

theorem effect_ldVxK_of_key {s : State} (h : s.keysSample ≠ 0) (x : Reg) :
    effect (.ldVxK x) s = s.takeKeys.writeV x (trunc8 (lowestKey s.keysSample)) := by
  simp only [effect, if_neg h]
  rfl

/-! ## Addresses as numbers (R252, R258, R259) -/

/-- The largest sum is 0x10FE: JP V0 does not wrap. -/
theorem toNat_trunc16_addr_add_byte (nnn : Addr) (b : Byte) : (trunc16 (nnn.toNat + b.toNat)).toNat = nnn.toNat + b.toNat := by
  have := nnn.isLt
  have := b.isLt
  rw [BitVec.toNat_ofNat]
  omega

theorem glyphAddr_toNat (b : Byte) : (glyphAddr b).toNat = 0x050 + 5 * (b.toNat % 16) := by
  rw [glyphAddr, fontBase_eq, BitVec.toNat_ofNat]
  omega

/-! ## The ways to end -/

section
variable {i : Instr} {s : State}

/-- What an instruction leaves whose effect is a skip on one sample of `keys` (R254, R255). -/
theorem completes_takeKeys_skipIf {c : Bool} {a : Word} (hg : guardOf i s = none) (he : effect i s = s.takeKeys.skipIf c)
    (ha : (if c then s.pc + 2 else s.pc) = a) :
    ∃ t, Completes i s t ∧ t.pc = a ∧ t.env.keys = s.env.keys.tail ∧ t.env.rnd = s.env.rnd ∧
      Keeps { pc := true, env := true } s t := by
  refine ⟨_, completes_of_guard_none hg, ?_⟩
  rw [he]
  exact ⟨ha, rfl, rfl, (((Keeps.refl _ s).takeKeys rfl).skipIf rfl c).commitOk⟩

/-- What an instruction leaves whose effect is the write of I (R258, R259). -/
theorem completes_setIdx {a : Word} {n : Nat} (hg : guardOf i s = none) (he : effect i s = s.setIdx a) (ha : a.toNat = n) :
    ∃ t, Completes i s t ∧ t.idx.toNat = n ∧ Keeps { idx := true } s t := by
  refine ⟨_, completes_of_guard_none hg, ?_⟩
  rw [he]
  exact ⟨ha, ((Keeps.refl _ s).setIdx rfl a).commitOk⟩

end

/-! ## The statements -/

/-- Settles O44, by the two cases of the sample: PC goes back, or Vx is the lowest key held. -/
theorem waitForKey : Obligations.WaitForKey := by
  refine ⟨rowDecodes_familyF rfl fun e w he hnn => by simp [decodeFamilyF, hnn, ifEnabled_eq_ok, he],
    fun x s => ⟨_, completes_of_guard_none rfl, rfl, rfl, fun hnone => ?_, fun hsome => ?_⟩⟩
  · rw [effect_ldVxK_of_no_key hnone]
    exact ⟨rfl, (((Keeps.refl _ s).takeKeys rfl).setPc rfl _).commitOk⟩
  · obtain ⟨-, hheld, hlow⟩ := lowestKey_spec hsome
    rw [effect_ldVxK_of_key hsome, State.readV_commitOk, State.readV_writeV, if_pos rfl, toNat_trunc8_lowestKey hsome]
    exact ⟨hheld, hlow, fun r hne => by rw [State.readV_commitOk, State.readV_writeV, if_neg hne, State.readV_takeKeys],
      (((Keeps.refl _ s).takeKeys rfl).writeV rfl x _).commitOk⟩

/-- Settles O39: the effect is one register write, the sum mod 256. -/
theorem addImmediate : Obligations.AddImmediate := by
  refine ⟨rowDecodes_F000 fun e w he ht => by simp [decodeWord, ht, ifEnabled_eq_ok, he], fun x nn s => ?_⟩
  obtain ⟨t, hc, hr, hk⟩ := completes_writeV (i := .addByte x nn) (s := s) rfl rfl
  exact ⟨t, hc, fun r => by rw [hr, apply_ite BitVec.toNat, addResult_toNat], hk⟩

/-- Settles O40: the effect is the move of PC, to a sum that fits 16 bits. -/
theorem jumpWithOffset : Obligations.JumpWithOffset :=
  ⟨rowDecodes_F000 fun e w he ht => by simp [decodeWord, ht, ifEnabled_eq_ok, he],
    fun nnn s => ⟨_, completes_of_guard_none rfl, toNat_trunc16_addr_add_byte nnn (s.readV 0),
      ((Keeps.refl _ s).setPc rfl _).commitOk⟩⟩

/-- Settles O41: the effect takes one sample of `rnd` and writes it masked. -/
theorem randomByteIsMasked : Obligations.RandomByteIsMasked := by
  refine ⟨rowDecodes_F000 fun e w he ht => by simp [decodeWord, ht, ifEnabled_eq_ok, he],
    fun x nn s => ⟨_, completes_of_guard_none rfl, fun b => ?_, fun r hne => ?_, rfl, rfl,
      (((Keeps.refl _ s).takeRnd rfl).writeV rfl x _).commitOk⟩,
    fun _ _ _ => rndSample_of_cons⟩
  · rw [State.readV_commitOk, effect, State.readV_writeV, if_pos rfl, BitVec.getLsbD_and]
  · rw [State.readV_commitOk, effect, State.readV_writeV, if_neg hne, State.readV_takeRnd]

/-- Settles O42: both effects are a skip on one sample of `keys`, SKNP's with the condition negated. -/
theorem skipOnKey : Obligations.SkipOnKey :=
  ⟨rowDecodes_familyE rfl fun e w he hnn => by simp [decodeFamilyE, hnn, he, ifEnabled_eq_ok],
    rowDecodes_familyE rfl fun e w he hnn => by simp [decodeFamilyE, hnn, he, ifEnabled_eq_ok],
    fun _ _ => completes_takeKeys_skipIf rfl rfl rfl,
    fun _ _ => completes_takeKeys_skipIf rfl rfl (by simp only [Bool.not_eq_true', ← Bool.not_eq_true, ite_not, keyIndex]),
    fun _ _ _ => keysSample_of_cons⟩

/-- Settles O45: each effect is the write of I, to a sum mod 65536 and to a glyph address. -/
theorem indexExtensions : Obligations.IndexExtensions :=
  ⟨rowDecodes_familyF rfl fun e w he hnn => by simp [decodeFamilyF, hnn, ifEnabled_eq_ok, he],
    rowDecodes_familyF rfl fun e w he hnn => by simp [decodeFamilyF, hnn, ifEnabled_eq_ok, he],
    fun _ _ => completes_setIdx rfl rfl (BitVec.toNat_ofNat ..),
    fun x s => completes_setIdx rfl rfl (glyphAddr_toNat (s.readV x))⟩

end Sys2Proof.Machine
end

section
/-! SUPPORT. The statements about reset and load (spec/70_reset_and_hazards.md R331, R332). Memory after a reset lists no cell,
so it reads as the reset contents of R34; a load is a store into it. -/

namespace Sys2Proof.Machine

/-! ## The reset contents of memory (R34) -/

theorem unlistedByte_font (font : Font) (a : Fin 80) : unlistedByte font (0x050 + a.val) = font.get a := by
  have := a.isLt
  rw [unlistedByte, fontBase_eq, fontLen_eq, if_pos (by omega), Nat.add_sub_cancel_left]
  simp [Vector.get_eq_getElem]

theorem unlistedByte_outside_font (font : Font) {a : Nat} (h : a < 0x050 ∨ 0x0A0 ≤ a) : unlistedByte font a = 0 := by
  rw [unlistedByte, fontBase_eq, fontLen_eq, if_neg (by omega)]

/-! ## What a reset leaves (R331) -/

section
variable (s : State)

theorem State.memOk_hostReset : s.hostReset.MemOk := rfl

theorem State.readByte_hostReset (a : Nat) : s.hostReset.readByte a = unlistedByte s.cfg.font a := rfl

theorem State.readV_hostReset (r : Reg) : s.hostReset.readV r = 0 := by
  simp [State.readV, State.hostReset, State.resetWith, Vector.get_eq_getElem]

theorem State.stk_get_hostReset (k : Fin 16) : s.hostReset.stk.get k = 0 := by
  simp [State.hostReset, State.resetWith, Vector.get_eq_getElem]

theorem State.fbRead_hostReset (c : Fin 2048) : s.hostReset.fbRead c = false := fbCell_fbClear c.val

end

/-! ## What a load does (R332) -/

section
variable {s : State} {bytes : List Byte}

theorem State.load_of_tooLarge (hb : s.busy = false) (hlen : 3584 < bytes.length) :
    s.load bytes = s.report { code := .romTooLarge, word := 0, pc := 0, ea := 0 } := by
  rw [State.load, if_neg (by simp [hb]), if_pos hlen]

theorem State.load_of_fits (hb : s.busy = false) (hlen : bytes.length ≤ 3584) :
    s.load bytes = s.hostReset.writeBytes 0x200 bytes := by
  rw [State.load, if_neg (by simp [hb]), if_neg (Nat.not_lt.2 hlen)]

/-- Memory ends where the longest image ends. -/
theorem image_fits (hlen : bytes.length ≤ 3584) : 0x200 + bytes.length ≤ Config.memSize := by
  rw [memSize_eq]
  omega

/-- From 0x200 on there is the image, and after it the zeros of the reset contents. -/
theorem State.readByte_image (hlen : bytes.length ≤ 3584) {a : Nat} (ha : 0x200 ≤ a) :
    (s.hostReset.writeBytes 0x200 bytes).readByte a = bytes.getD (a - 0x200) 0 := by
  rw [State.readByte_writeBytes s.memOk_hostReset (image_fits hlen)]
  split
  case isTrue => rfl
  case isFalse hout =>
    rw [State.readByte_hostReset, unlistedByte_outside_font _ (by omega),
      List.getD_eq_default _ _ (by omega)]

/-- Below 0x200 a load leaves the reset contents. -/
theorem State.readByte_below_image {a : Nat} (ha : a < 0x200) :
    (s.hostReset.writeBytes 0x200 bytes).readByte a = unlistedByte s.cfg.font a :=
  s.hostReset.readByte_writeBytes_outside bytes (.inl ha)

end

/-! ## The statements -/

/-- Settles O47: a load is a report alone, or a store of the image into the reset state. -/
theorem loadCopiesTheRom : Obligations.LoadCopiesTheRom := by
  refine ⟨fun s bytes hb hlen => ?_, fun s bytes hb hlen => ?_⟩
  · rw [hostOp, State.load_of_tooLarge hb hlen]
    exact ⟨_, rfl, rfl, keeps_report_setPc (a := s.pc) (fun _ => rfl) rfl _⟩
  · rw [hostOp, State.load_of_fits hb hlen]
    refine ⟨_, rfl, rfl, rfl, s.readV_hostReset, rfl, rfl, rfl, s.stk_get_hostReset, rfl, rfl, s.fbRead_hostReset, rfl, rfl, rfl,
      fun a => ?_, fun a ha => ?_, fun a ha => State.readByte_image hlen ha⟩
    · rw [State.readByte_below_image (by omega), unlistedByte_font]
    · rw [State.readByte_below_image (by omega), unlistedByte_outside_font _ (by omega)]

/-- Settles O46: `hostReset` is the state of R34, whose memory reads as the reset contents. -/
theorem resetValues : Obligations.ResetValues := fun s =>
  ⟨s.hostReset, rfl, s.readV_hostReset, rfl, rfl, rfl, s.stk_get_hostReset, rfl, rfl, s.fbRead_hostReset,
    fun a => unlistedByte_font s.cfg.font a, fun _ ha => unlistedByte_outside_font s.cfg.font ha, rfl, rfl, rfl⟩

end Sys2Proof.Machine
end

section
/-! SUPPORT. The statements about the encoding (spec/30_encoding.md, spec/46_optional_standard.md). The decoder is tied to the opcode
map in both directions: the words of a row decode (`RowDecodes`, given with each instruction), and a word that decodes lies in the
row of its instruction (`inRow_of_decodeWord`). -/

namespace Sys2Proof.Machine

open Sys2Proof.Laws.Canonical (and_F000 and_F00F and_F0FF)

/-- The two bytes of a word, as a decoder reads them (R52, R70). -/
theorem decode_bytesOfWord (e : ExtOps) (w : Word) (rest : List Byte) :
    decode e (bytesOfWord w ++ rest) = (decodeWord e w).map fun i => (i, rest) := by
  simp only [bytesOfWord, List.cons_append, List.nil_append, decode, wordOfBytes_bytes]
  cases decodeWord e w <;> rfl

theorem wellFormed_of_member {e : ExtOps} {i : Instr} {m : ExtOp} (hm : i.member = some m) :
    i.wellFormed e = e.has m := by
  simp only [Instr.wellFormed, hm]

/-- The canonical word of a well-formed instruction decodes to it: the fields of a packed word are what was packed (R81). -/
theorem decodeWord_encode {e : ExtOps} {i : Instr} (h : i.wellFormed e = true) : decodeWord e (encode i) = .ok i := by
  cases i
  case cls | ret => rfl
  case jp | call | ldI => simp [encode, decodeWord]
  case seByte | sneByte | ldByte => simp [encode, decodeWord]
  case seReg | sneReg | drw => simp [encode, decodeWord]
  case ldReg | orReg | andReg | xorReg | addReg | subReg | shr | subn | shl => simp [encode, decodeWord, decodeFamily8]
  case ldDT | ldST | ldB | dump | load => simp [encode, decodeWord, decodeFamilyF]
  case addByte | jpV0 | rnd =>
    rw [wellFormed_of_member rfl, ExtOps.has] at h
    simp [encode, decodeWord, ifEnabled_eq_ok, h]
  case skp | sknp =>
    rw [wellFormed_of_member rfl, ExtOps.has] at h
    simp [encode, decodeWord, decodeFamilyE, ifEnabled_eq_ok, h]
  case ldVxDT | ldVxK | addI | ldF =>
    rw [wellFormed_of_member rfl, ExtOps.has] at h
    simp [encode, decodeWord, decodeFamilyF, ifEnabled_eq_ok, h]

/-- Settles O2: the decoder reads the canonical word back and decodes it. -/
theorem decodeOfEncode : Obligations.DecodeOfEncode := by
  intro e i rest h
  rw [decode_bytesOfWord, decodeWord_encode h]
  rfl

/-! ## The row of a decoded word (R75, R78) -/

/-- The word lies in the row of the instruction, and the configuration has the instruction. -/
def InRow (e : ExtOps) (w : Word) (i : Instr) : Prop := w &&& i.matchMask.2 = i.matchMask.1 ∧ i.wellFormed e = true

section
variable {e : ExtOps} {w mat : Word} {i : Instr}

/-- A row with the mask `0xF000` holds the words of its top nibble. -/
theorem inRow_F000 (hi : i.matchMask = (mat, 0xF000)) (hmat : mat.toNat % 4096 = 0) (hwf : i.wellFormed e = true)
    (ht : (fieldT w).val = mat.toNat / 4096) : InRow e w i := by
  have := w.isLt
  rw [fieldT_val] at ht
  refine ⟨?_, hwf⟩
  rw [hi]
  change w &&& 0xF000 = mat
  exact BitVec.eq_of_toNat_eq (by rw [and_F000]; omega)

/-- A row with the mask `0xF00F` holds the words of its top nibble and low nibble. -/
theorem inRow_F00F (hi : i.matchMask = (mat, 0xF00F)) (hmat : mat.toNat / 16 % 256 = 0) (hwf : i.wellFormed e = true)
    (ht : (fieldT w).val = mat.toNat / 4096) (hn : (fieldN w).val = mat.toNat % 16) : InRow e w i := by
  have := w.isLt
  rw [fieldT_val] at ht
  rw [fieldN_val] at hn
  refine ⟨?_, hwf⟩
  rw [hi]
  change w &&& 0xF00F = mat
  exact BitVec.eq_of_toNat_eq (by rw [and_F00F]; omega)

/-- A row with the mask `0xF0FF` holds the words of its top nibble and low byte. -/
theorem inRow_F0FF (hi : i.matchMask = (mat, 0xF0FF)) (hmat : mat.toNat / 256 % 16 = 0) (hwf : i.wellFormed e = true)
    (ht : (fieldT w).val = mat.toNat / 4096) (hnn : (fieldNN w).toNat = mat.toNat % 256) : InRow e w i := by
  have := w.isLt
  rw [fieldT_val] at ht
  rw [fieldNN_toNat] at hnn
  refine ⟨?_, hwf⟩
  rw [hi]
  change w &&& 0xF0FF = mat
  exact BitVec.eq_of_toNat_eq (by rw [and_F0FF]; omega)

theorem inRow_of_decodeFamily0 (ht : (fieldT w).val = 0x0) (h : decodeFamily0 w = .ok i) : InRow e w i := by
  unfold decodeFamily0 at h
  split at h <;> cases h
  all_goals exact inRow_F00F rfl rfl rfl ht ‹_›

theorem inRow_of_decodeFamily8 (ht : (fieldT w).val = 0x8) (h : decodeFamily8 w = .ok i) : InRow e w i := by
  unfold decodeFamily8 at h
  split at h <;> cases h
  all_goals exact inRow_F00F rfl rfl rfl ht ‹_›

theorem inRow_of_decodeFamilyE (ht : (fieldT w).val = 0xE) (h : decodeFamilyE e w = .ok i) : InRow e w i := by
  unfold decodeFamilyE at h
  split at h
  case isFalse => cases h
  case isTrue =>
    split at h
    case h_3 => cases h
    all_goals
      obtain ⟨he, rfl⟩ := (ifEnabled_eq_ok ..).1 h
      exact inRow_F0FF rfl rfl he ht ‹_›

theorem inRow_of_decodeFamilyF (ht : (fieldT w).val = 0xF) (h : decodeFamilyF e w = .ok i) : InRow e w i := by
  unfold decodeFamilyF at h
  split at h
  case h_1 | h_2 | h_5 | h_6 =>
    obtain ⟨he, rfl⟩ := (ifEnabled_eq_ok ..).1 h
    exact inRow_F0FF rfl rfl he ht ‹_›
  all_goals cases h
  all_goals exact inRow_F0FF rfl rfl rfl ht ‹_›

/-- A decoded word lies in the row of its instruction: the decoder's choices are those of the row's match. -/
theorem inRow_of_decodeWord (h : decodeWord e w = .ok i) : InRow e w i := by
  have hlt := (fieldT w).isLt
  unfold decodeWord at h
  split at h
  case h_1 ht => exact inRow_of_decodeFamily0 ht h
  case h_9 ht => exact inRow_of_decodeFamily8 ht h
  case h_15 ht => exact inRow_of_decodeFamilyE ht h
  case h_16 => exact inRow_of_decodeFamilyF (by grind) h
  case h_8 | h_12 | h_13 =>
    obtain ⟨he, rfl⟩ := (ifEnabled_eq_ok ..).1 h
    exact inRow_F000 rfl rfl he ‹_›
  all_goals cases h
  all_goals exact inRow_F000 rfl rfl rfl ‹_›

theorem wellFormed_of_decodeWord (h : decodeWord e w = .ok i) : i.wellFormed e = true := (inRow_of_decodeWord h).2

end

/-- Settles O3: what the decoder answers lies in the row of the word. -/
theorem decodedWordMatchesItsRow : Obligations.DecodedWordMatchesItsRow := fun _ _ _ => inRow_of_decodeWord

/-! ## A tick in the clock cycle of the timer read (R106) -/

theorem writesDT_of_ldVxDT {x : Reg} {s : State} (hi : s.current = .ok (.ldVxDT x)) : s.writesDT = false := by
  simp [State.writesDT, hi]

/-- Settles O43: the effect is one register write; EX_1 reads DT and the tick that comes with it is not dropped. -/
theorem readDelayTimer : Obligations.ReadDelayTimer := by
  refine ⟨rowDecodes_familyF rfl fun e w he hnn => by simp [decodeFamilyF, hnn, ifEnabled_eq_ok, he],
    fun _ _ => completes_writeV rfl rfl, fun x s hex hi => ⟨?_, ?_⟩⟩
  · have hv : (cycle { tick := true } s).readV x = (fsmNext { tick := true } s).readV x := rfl
    rw [hv, fsmNext_of_ex1 hex, fsmEx1_of_current hi]
    exact (State.readV_writeV x x s.dt s).trans (if_pos rfl)
  · rw [cycle_tick_dt, writesDT_of_ldVxDT hi, fsmNext_of_ex1 hex, fsmEx1_of_current hi]
    exact tickCounter_toNat s.dt

/-! ## Rows and words (R75, R76, R78) -/

/-- The row of the opcode map that an instruction belongs to. -/
def instrRow (i : Instr) : OpRow := ⟨i.matchMask.1, i.matchMask.2, i.member⟩

theorem row_mem_rowsOf {e : ExtOps} {i : Instr} (h : i.wellFormed e = true) : instrRow i ∈ rowsOf e := by
  cases i
  case addByte | jpV0 | rnd | skp | sknp | ldVxDT | ldVxK | addI | ldF =>
    exact List.mem_append_right _ (List.mem_filter.2 ⟨by simp [instrRow, Instr.matchMask, Instr.member, extRows], h⟩)
  all_goals exact List.mem_append_left _ (by simp [instrRow, Instr.matchMask, Instr.member, baseRows])

theorem covers_iff (r : OpRow) (w : Word) : r.covers w = true ↔ w &&& r.mask = r.mat := beq_iff_eq

/-- The words of each of the 25 rows decode, in every configuration. -/
theorem baseRows_decode : ∀ r ∈ baseRows, ∃ i, RowDecodes r.mask r.mat (fun _ => true) i := by
  simp only [baseRows, List.cons_append, List.nil_append, List.forall_mem_cons]
  exact ⟨⟨_, clsClearsEveryCell.1⟩, ⟨_, retPopsIntoPc.1⟩, ⟨_, jpSetsPc.1⟩, ⟨_, callPushesAndJumps.1⟩, ⟨_, skipOnImmediate.1⟩,
    ⟨_, skipOnImmediate.2.1⟩, ⟨_, skipOnRegister.1⟩, ⟨_, loadsIntoRegisters.1⟩, ⟨_, loadsIntoRegisters.2.1⟩,
    ⟨_, bitwiseOperations.1⟩, ⟨_, bitwiseOperations.2.1⟩, ⟨_, bitwiseOperations.2.2.1⟩, ⟨_, addSetsSumAndCarry.1⟩,
    ⟨_, subtractionsSetNoBorrow.1⟩, ⟨_, subtractionsSetNoBorrow.2.1⟩, ⟨_, shiftsSetTheBitShiftedOut.1⟩,
    ⟨_, shiftsSetTheBitShiftedOut.2.1⟩, ⟨_, skipOnRegister.2.1⟩, ⟨_, ldISetsIndex.1⟩, ⟨_, drwFlipsCoveredCells.1⟩,
    ⟨_, timerLoads.1⟩, ⟨_, timerLoads.2.1⟩, ⟨_, bcdStoresTheDigits.1⟩, ⟨_, dumpStoresTheRegisters.1⟩,
    ⟨_, loadReadsTheRegisters.1⟩, by simp⟩

/-- The words of each of the nine optional rows decode where the configuration has its member. -/
theorem extRows_decode : ∀ r ∈ extRows, ∃ i, RowDecodes r.mask r.mat (fun e => r.member.all e.has) i := by
  simp only [extRows, List.forall_mem_cons]
  exact ⟨⟨_, addImmediate.1⟩, ⟨_, jumpWithOffset.1⟩, ⟨_, randomByteIsMasked.1⟩, ⟨_, skipOnKey.1⟩, ⟨_, skipOnKey.2.1⟩,
    ⟨_, readDelayTimer.1⟩, ⟨_, waitForKey.1⟩, ⟨_, indexExtensions.1⟩, ⟨_, indexExtensions.2.1⟩, by simp⟩

/-- Settles O4: the row of a decoded word is among the rows of the configuration, and the words of each of them decode. -/
theorem wordDecodesIffARowCoversIt : Obligations.WordDecodesIffARowCoversIt := by
  intro e w
  constructor
  · rintro ⟨i, hi⟩
    obtain ⟨hrow, hwf⟩ := inRow_of_decodeWord hi
    exact ⟨instrRow i, row_mem_rowsOf hwf, (covers_iff ..).2 hrow⟩
  · rintro ⟨r, hr, hc⟩
    have hw := (covers_iff r w).1 hc
    rcases List.mem_append.1 hr with hbase | hext
    · obtain ⟨i, hi⟩ := baseRows_decode r hbase
      exact ⟨i w, hi e w rfl hw⟩
    · obtain ⟨hmem, hon⟩ := List.mem_filter.1 hext
      obtain ⟨i, hi⟩ := extRows_decode r hmem
      refine ⟨i w, hi e w ?_ hw⟩
      cases hm : r.member <;> simp_all

/-! ## No word is in two rows -/

/-- Two rows that cover a word agree on the bits both masks keep. -/
theorem mat_and_mask_of_covers {r q : OpRow} {w : Word} (hr : r.covers w = true) (hq : q.covers w = true) :
    r.mat &&& q.mask = q.mat &&& r.mask := by
  rw [← (covers_iff r w).1 hr, ← (covers_iff q w).1 hq, BitVec.and_assoc, BitVec.and_assoc, BitVec.and_comm q.mask]

/-- Any two of the 34 rows disagree on such a bit. -/
theorem rowsOf_all_pairwise :
    (rowsOf ExtOps.all).Pairwise fun r q => r.mat &&& q.mask ≠ q.mat &&& r.mask := by
  decide

/-- Settles O5: two rows at different positions disagree on a bit that both masks keep. -/
theorem rowsDoNotOverlap : Obligations.RowsDoNotOverlap := by
  intro i j r q w hi hj hr hq
  obtain ⟨hi', rfl⟩ := List.getElem?_eq_some_iff.1 hi
  obtain ⟨hj', rfl⟩ := List.getElem?_eq_some_iff.1 hj
  have hne := List.pairwise_iff_getElem.1 rowsOf_all_pairwise
  rcases Nat.lt_trichotomy i j with hlt | heq | hgt
  · exact absurd (mat_and_mask_of_covers hr hq) (hne i j hi' hj' hlt)
  · exact heq
  · exact absurd (mat_and_mask_of_covers hq hr) (hne j i hj' hi' hgt)

/-! ## Ignored bits (R77) -/

section
variable {w w' : Word} {i : Instr}

/-- Family 0x0 reads the low nibble alone (R73). -/
theorem decodeFamily0_of_fieldN (hn : fieldN w' = fieldN w) (h : decodeFamily0 w = .ok i) : decodeFamily0 w' = .ok i := by
  unfold decodeFamily0 at h ⊢
  rw [hn]
  split at h
  case h_1 | h_2 => exact h
  case h_3 => cases h

/-- SHR and SHL read no `y` field (R74). -/
theorem decodeFamily8_of_fieldX (hshift : fieldN w = 0x6 ∨ fieldN w = 0xE) (hn : fieldN w' = fieldN w) (hx : fieldX w' = fieldX w)
    (h : decodeFamily8 w = .ok i) : decodeFamily8 w' = .ok i := by
  unfold decodeFamily8 at h ⊢
  rw [hn, hx]
  rcases hshift with hs | hs <;> rw [hs] at h ⊢ <;> exact h

end

/-- Settles O7: each of these families reads only the fields that the two words share. -/
theorem ignoredBitsDoNotMatter : Obligations.IgnoredBitsDoNotMatter := by
  intro e w w' i h ht hcases
  unfold decodeWord at h ⊢
  rw [ht]
  rcases hcases with ⟨h0, hn⟩ | ⟨h5 | h9, hx, hy⟩ | ⟨h8, hshift, hn, hx⟩
  · rw [h0] at h ⊢
    exact decodeFamily0_of_fieldN hn h
  · rw [h5] at h ⊢
    rw [hx, hy]
    exact h
  · rw [h9] at h ⊢
    rw [hx, hy]
    exact h
  · rw [h8] at h ⊢
    exact decodeFamily8_of_fieldX hshift hn hx h

/-! ## Counting the words (R76) -/

/-- Whether a word with top nibble `t` and low byte `nn` is one of the 25 rows of R75: nine families are whole, two are keyed on the
low nibble, one on the low byte. -/
def recognized (t nn : Nat) : Bool :=
  match t with
  | 0x0 => nn % 16 ∈ [0x0, 0xE]
  | 0x8 => nn % 16 ∈ [0x0, 0x1, 0x2, 0x3, 0x4, 0x5, 0x6, 0x7, 0xE]
  | 0xF => nn ∈ [0x15, 0x18, 0x33, 0x55, 0x65]
  | 0x7 | 0xB | 0xC | 0xE => false
  | _ => true

theorem fieldNN_mod (w : Word) : (fieldNN w).toNat % 16 = (fieldN w).val := by
  rw [fieldNN_toNat, fieldN_val]
  omega

theorem isOk_decodeFamily0 (w : Word) : (decodeFamily0 w).isOk = recognized 0x0 (fieldNN w).toNat := by
  have hlt := (fieldN w).isLt
  unfold decodeFamily0 recognized
  rw [fieldNN_mod]
  generalize (fieldN w).val = n at hlt
  interval_cases n <;> rfl

theorem isOk_decodeFamily8 (w : Word) : (decodeFamily8 w).isOk = recognized 0x8 (fieldNN w).toNat := by
  have hlt := (fieldN w).isLt
  unfold decodeFamily8 recognized
  rw [fieldNN_mod]
  generalize (fieldN w).val = n at hlt
  interval_cases n <;> rfl

theorem isOk_decodeFamilyF (w : Word) : (decodeFamilyF ExtOps.none w).isOk = recognized 0xF (fieldNN w).toNat := by
  unfold decodeFamilyF recognized
  generalize (fieldNN w).toNat = nn
  split
  case h_10 => simp_all [Except.isOk, Except.toBool]
  all_goals rfl

/-- Recognition in the default configuration depends on the top nibble and the low byte alone. -/
theorem isOk_decodeWord (w : Word) : (decodeWord ExtOps.none w).isOk = recognized (fieldT w).val (fieldNN w).toNat := by
  have hlt := (fieldT w).isLt
  unfold decodeWord
  generalize (fieldT w).val = t at hlt
  split
  case h_1 => exact isOk_decodeFamily0 w
  case h_9 => exact isOk_decodeFamily8 w
  case h_16 =>
    obtain rfl : t = 15 := by grind
    exact isOk_decodeFamilyF w
  all_goals rfl

/-- Counting over `a` blocks of `b` numbers, of which each has `c`. -/
theorem countP_range_mul (p : Nat → Bool) (a b : Nat) :
    (List.range (a * b)).countP p = ((List.range a).map fun i => (List.range b).countP fun j => p (i * b + j)).sum := by
  induction a with
  | zero => simp
  | succ a ih =>
    rw [Nat.succ_mul, List.range_add, List.countP_append, ih, List.range_succ, List.map_append, List.sum_append, List.countP_map]
    simp [Function.comp_def]


/-- A count over the words that depends on the top nibble and the low byte alone: sixteen words share the two. -/
theorem countP_range_word {p : Nat → Bool} {f : Nat → Nat → Bool}
    (h : ∀ t x nn, t < 16 → x < 16 → nn < 256 → p (t * 4096 + (x * 256 + nn)) = f t nn) :
    (List.range (16 * 4096)).countP p = ((List.range 16).map fun t => 16 * (List.range 256).countP (f t)).sum := by
  rw [countP_range_mul]
  refine congrArg List.sum (List.map_congr_left fun t ht => ?_)
  rw [show 4096 = 16 * 256 from rfl, countP_range_mul]
  have hrow : ∀ x ∈ List.range 16, ((List.range 256).countP fun nn => p (t * 4096 + (x * 256 + nn))) = (List.range 256).countP (f t) :=
    fun x hx => List.countP_congr fun nn hnn => by
      rw [h t x nn (List.mem_range.1 ht) (List.mem_range.1 hx) (List.mem_range.1 hnn)]
  rw [List.map_congr_left hrow, List.map_const', List.sum_replicate, List.length_range, smul_eq_mul]

theorem sum_countP_recognized : ((List.range 16).map fun t => 16 * (List.range 256).countP (recognized t)).sum = 39760 := by
  decide +kernel

theorem isOk_decodeWord_ofNat {t x nn : Nat} (ht : t < 16) (hx : x < 16) (hnn : nn < 256) :
    (decodeWord ExtOps.none (BitVec.ofNat 16 (t * 4096 + (x * 256 + nn)))).isOk = recognized t nn := by
  rw [isOk_decodeWord, fieldT_val, fieldNN_toNat, BitVec.toNat_ofNat]
  congr 1 <;> omega

theorem countP_isOk_decodeWord :
    (List.range (16 * 4096)).countP (fun w => (decodeWord ExtOps.none (BitVec.ofNat 16 w)).isOk) = 39760 := by
  rw [countP_range_word fun _ _ _ => isOk_decodeWord_ofNat, sum_countP_recognized]

theorem countP_not_range {n c : Nat} {p : Nat → Bool} (h : (List.range n).countP p = c) :
    (List.range n).countP (fun k => !p k) = n - c := by
  have hlen := List.length_eq_countP_add_countP (l := List.range n) p
  simp only [List.length_range, h, Bool.not_eq_true, Bool.decide_eq_false] at hlen
  omega

/-- Settles O6: 36864 words in nine whole families, 2816 in eleven keyed on the low nibble and 80 in five keyed on the low byte. -/
theorem recognizedWordCount : Obligations.RecognizedWordCount :=
  ⟨countP_isOk_decodeWord, countP_not_range countP_isOk_decodeWord⟩

/-! ## Words of the spec -/

/-- Settles O1, by running the decoder on each word. -/
theorem specWordsDecode : Obligations.SpecWordsDecode := by
  unfold Obligations.SpecWordsDecode
  decide

end Sys2Proof.Machine
end

section
/-! SUPPORT. What one step can change: the frames (spec/20_memory.md, spec/10_state.md sections 3 to 7) and the invariant that every
host operation keeps. A step that changes a part of the state is an instruction whose guard passed, so each frame is a fact about
`effect`. -/

namespace Sys2Proof.Machine

/-! ## How a step changes a part of the state -/

/-- An instruction either raises what its guard says, or commits its effect. -/
theorem outcome_cases (i : Instr) (s : State) :
    (∃ c ea, guardOf i s = some (c, ea) ∧ outcome i s = s.raise c ea) ∨
    (guardOf i s = none ∧ outcome i s = (effect i s).commitOk) := by
  cases hg : guardOf i s with
  | none => exact .inr ⟨rfl, outcome_of_guard_none hg⟩
  | some p => exact .inl ⟨p.1, p.2, rfl, outcome_of_guard_some hg⟩

theorem nextInstr_of_decode {s : State} {w : Word} {i : Instr} (hw : s.fetchWord = some w)
    (hi : decodeWord s.cfg.extOps w = .ok i) : s.nextInstr = some i := by
  simp only [State.nextInstr, hw, hi]

/-- The fetch and a report touch PC, STATUS, the log and the FSM's registers alone; what else a step changes, the effect of its
instruction changes. -/
theorem step_changes {α : Type} (f : State → α)
    (hf : ∀ (s : State) (pc : Word) (q : Status) (l : List Status) (h : Hidden),
      f { s with pc := pc, status := q, log := l, hid := h } = f s)
    {s t : State} (h : step s = .next t) (hne : f t ≠ f s) :
    ∃ w i, s.fetchWord = some w ∧ decodeWord s.cfg.extOps w = .ok i ∧ guardOf i (s.latch w) = none ∧
      t = (effect i (s.latch w)).commitOk ∧ f (effect i (s.latch w)) ≠ f s := by
  rcases step_cases h with ⟨-, rfl⟩ | ⟨-, -, rfl⟩ | ⟨-, w, r, -, -, rfl⟩ | ⟨-, w, i, hw, hi, rfl⟩
  · exact absurd rfl hne
  · exact absurd (hf s ..) hne
  · exact absurd (hf s ..) hne
  · rcases outcome_cases i (s.latch w) with ⟨c, ea, -, hout⟩ | ⟨hg, hout⟩ <;> rw [hout] at hne ⊢
    · exact absurd (hf s ..) hne
    · have hcommit : f (effect i (s.latch w)).commitOk = f (effect i (s.latch w)) := hf (effect i (s.latch w)) ..
      exact ⟨w, i, hw, hi, hg, rfl, hcommit ▸ hne⟩

theorem step_cfg {s t : State} (h : step s = .next t) : t.cfg = s.cfg := by
  by_contra hne
  obtain ⟨w, i, -, -, -, -, hcfg⟩ := step_changes State.cfg (fun _ _ _ _ _ => rfl) h hne
  exact hcfg (effect_cfg i (s.latch w))

/-! ## Which effects write what -/

section
variable (i : Instr) (s : State)

theorem effect_mem : (∃ x, i = .ldB x) ∨ (∃ x, i = .dump x) ∨ (effect i s).mem = s.mem := by
  cases i
  case ldB x => exact .inl ⟨x, rfl⟩
  case dump x => exact .inr (.inl ⟨x, rfl⟩)
  all_goals exact .inr (.inr (by simp [effect]))

theorem effect_fb : i = .cls ∨ (∃ x y n, i = .drw x y n) ∨ (effect i s).fb = s.fb := by
  cases i
  case cls => exact .inl rfl
  case drw x y n => exact .inr (.inl ⟨x, y, n, rfl⟩)
  all_goals exact .inr (.inr (by simp [effect]))

theorem effect_stack : (∃ nnn, i = .call nnn) ∨ i = .ret ∨ ((effect i s).sp, (effect i s).stk) = (s.sp, s.stk) := by
  cases i
  case call nnn => exact .inl ⟨nnn, rfl⟩
  case ret => exact .inr (.inl rfl)
  all_goals exact .inr (.inr (by simp [effect]))

theorem effect_idx : (∃ nnn, i = .ldI nnn) ∨ (∃ x, i = .addI x) ∨ (∃ x, i = .ldF x) ∨ (effect i s).idx = s.idx := by
  cases i
  case ldI nnn => exact .inl ⟨nnn, rfl⟩
  case addI x => exact .inr (.inl ⟨x, rfl⟩)
  case ldF x => exact .inr (.inr (.inl ⟨x, rfl⟩))
  all_goals exact .inr (.inr (.inr (by simp [effect])))

theorem effect_dt : (∃ x, i = .ldDT x) ∨ (effect i s).dt = s.dt := by
  cases i
  case ldDT x => exact .inl ⟨x, rfl⟩
  all_goals exact .inr (by simp [effect])

theorem effect_st : (∃ x, i = .ldST x) ∨ (effect i s).st = s.st := by
  cases i
  case ldST x => exact .inl ⟨x, rfl⟩
  all_goals exact .inr (by simp [effect])

end

/-! ## The frames of memory, framebuffer, stack, index and timers -/

/-- Settles O51: a byte changes only inside the bytes stored, and only two effects store and two draw. -/
theorem onlyTheirInstructionsWriteMemoryAndFramebuffer : Obligations.OnlyTheirInstructionsWriteMemoryAndFramebuffer := by
  refine ⟨fun s t a h hne => ?_, fun s t c h hne => ?_⟩
  · obtain ⟨w, i, hw, hi, -, -, hne⟩ := step_changes (fun s => s.readByte a) (fun _ _ _ _ _ => rfl) h hne
    have hin {bs : List Byte} (hne : ((s.latch w).writeBytes s.idx.toNat bs).readByte a ≠ s.readByte a) :
        s.idx.toNat ≤ a ∧ a < s.idx.toNat + bs.length := by
      by_contra hout
      exact hne ((s.latch w).readByte_writeBytes_outside bs (by omega))
    rcases effect_mem i (s.latch w) with ⟨x, rfl⟩ | ⟨x, rfl⟩ | hmem
    · obtain ⟨hlo, hhi⟩ := hin hne
      rw [length_bcdDigits] at hhi
      exact .inl ⟨x, nextInstr_of_decode hw hi, hlo, by omega⟩
    · obtain ⟨hlo, hhi⟩ := hin hne
      rw [State.length_regsUpTo] at hhi
      exact .inr ⟨x, nextInstr_of_decode hw hi, hlo, by omega⟩
    · exact absurd (by rw [State.readByte, effect_cfg, hmem]; rfl) hne
  · obtain ⟨w, i, hw, hi, -, -, hne⟩ := step_changes (fun s => s.fbRead c) (fun _ _ _ _ _ => rfl) h hne
    rcases effect_fb i (s.latch w) with rfl | ⟨x, y, n, rfl⟩ | hfb
    · exact .inl (nextInstr_of_decode hw hi)
    · exact .inr ⟨x, y, n, nextInstr_of_decode hw hi⟩
    · exact absurd (by rw [State.fbRead, hfb]; rfl) hne

/-- Settles O52: each of these parts is written by the effects named, and by no fetch or report. -/
theorem onlyTheirInstructionsWriteStackIndexAndTimers : Obligations.OnlyTheirInstructionsWriteStackIndexAndTimers := by
  refine fun s t h => ⟨fun hne => ?_, fun hne => ?_, fun hne => ?_, fun hne => ?_, step_cfg h⟩
  · have hne : (t.sp, t.stk) ≠ (s.sp, s.stk) := by
      rintro heq
      obtain ⟨hsp, hstk⟩ := Prod.mk.inj heq
      simp [hsp, hstk] at hne
    obtain ⟨w, i, hw, hi, -, -, hne⟩ := step_changes (fun s => (s.sp, s.stk)) (fun _ _ _ _ _ => rfl) h hne
    rcases effect_stack i (s.latch w) with ⟨nnn, rfl⟩ | rfl | hst
    · exact .inl ⟨nnn, nextInstr_of_decode hw hi⟩
    · exact .inr (nextInstr_of_decode hw hi)
    · exact absurd hst hne
  · obtain ⟨w, i, hw, hi, -, -, hne⟩ := step_changes State.idx (fun _ _ _ _ _ => rfl) h hne
    rcases effect_idx i (s.latch w) with ⟨nnn, rfl⟩ | ⟨x, rfl⟩ | ⟨x, rfl⟩ | hidx
    · exact .inl ⟨nnn, nextInstr_of_decode hw hi⟩
    · exact .inr (.inl ⟨x, nextInstr_of_decode hw hi⟩)
    · exact .inr (.inr ⟨x, nextInstr_of_decode hw hi⟩)
    · exact absurd hidx hne
  · obtain ⟨w, i, hw, hi, -, -, hne⟩ := step_changes State.dt (fun _ _ _ _ _ => rfl) h hne
    obtain ⟨x, rfl⟩ := (effect_dt i (s.latch w)).resolve_right hne
    exact ⟨x, nextInstr_of_decode hw hi⟩
  · obtain ⟨w, i, hw, hi, -, -, hne⟩ := step_changes State.st (fun _ _ _ _ _ => rfl) h hne
    obtain ⟨x, rfl⟩ := (effect_st i (s.latch w)).resolve_right hne
    exact ⟨x, nextInstr_of_decode hw hi⟩

/-! ## The invariant: memory and index (R24, R30) -/

section
variable {s t : State}

/-- Where the window check passes, a store at I stays inside memory. -/
theorem memOk_step (hs : s.MemOk) (h : step s = .next t) : t.MemOk := by
  by_cases hmem : t.mem = s.mem
  · rwa [State.MemOk, step_cfg h, hmem]
  · obtain ⟨w, i, -, -, hg, rfl, hne⟩ := step_changes State.mem (fun _ _ _ _ _ => rfl) h hmem
    have hfits {last : Nat} (hg : ((s.latch w).windowFault 0 last).map (fun ea => (Code.memoryOutOfBounds, ea)) = none) :
        s.idx.toNat + last ≤ 0xFFF :=
      (State.windowFault_eq_none (s.latch w) 0 last).1 (Option.map_eq_none_iff.1 hg)
    rcases effect_mem i (s.latch w) with ⟨x, rfl⟩ | ⟨x, rfl⟩ | hmem'
    · have := hfits hg
      exact Memory.wf_writeBytes hs (by rw [length_bcdDigits, memSize_eq, State.latch_idx]; omega)
    · have := hfits hg
      exact Memory.wf_writeBytes hs (by rw [State.length_regsUpTo, memSize_eq, State.latch_idx]; omega)
    · exact absurd hmem' hne

theorem indexOk_step (hs : s.IndexOk) (h : step s = .next t) : t.IndexOk := by
  by_cases hidx : t.idx = s.idx
  · rwa [State.IndexOk, step_cfg h, hidx]
  · obtain ⟨w, i, -, hi, -, rfl, hne⟩ := step_changes State.idx (fun _ _ _ _ _ => rfl) h hidx
    intro hoff
    rcases effect_idx i (s.latch w) with ⟨nnn, rfl⟩ | ⟨x, rfl⟩ | ⟨x, rfl⟩ | hidx'
    · have := zextAddr_toNat nnn
      have := nnn.isLt
      simp only [State.commitOk_idx, effect, State.setIdx_idx]
      omega
    · have hon : s.cfg.extOps.addI = true := wellFormed_of_decodeWord hi
      exact absurd (hoff.symm.trans hon) (by decide)
    · have := glyphAddr_toNat ((s.latch w).readV x)
      simp only [State.commitOk_idx, effect, State.setIdx_idx]
      omega
    · exact absurd hidx' hne

end

/-! ## The invariant: PC and the return addresses (R26) -/

/-- PC and the return addresses are at most 0x1000, as they are once a word has been fetched. -/
def State.PcFetched (s : State) : Prop :=
  s.pc.toNat ≤ 0x1000 ∧ s.hid.pcInsn.toNat ≤ 0x1000 ∧ ∀ k : Fin 16, (s.stk.get k).toNat ≤ 0x1000

section
variable {s t : State}

theorem toNat_add_two {a : Word} (h : a.toNat ≤ 0x1002) : (a + 2).toNat = a.toNat + 2 := by
  rw [BitVec.toNat_add]
  exact Nat.mod_eq_of_lt (by simp; omega)

theorem pcFetched_latch (hs : s.PcOk) {w : Word} (hw : s.fetchWord = some w) : (s.latch w).PcFetched := by
  obtain ⟨hpc, -⟩ := (fetchWord_eq_some s w).1 hw
  have := toNat_add_two (a := s.pc) (by omega)
  exact ⟨by rw [State.latch_pc]; omega, by simp only [State.latch_hid]; omega, hs.2.2⟩

theorem pcOk_of_le (hpc : s.pc.toNat ≤ 0x1002) (hstk : ∀ k : Fin 16, (s.stk.get k).toNat ≤ 0x1000) : s.PcOk :=
  ⟨fun _ => hpc, by omega, hstk⟩

theorem top_toNat_le (hstk : ∀ k : Fin 16, (s.stk.get k).toNat ≤ 0x1000) : s.top.toNat ≤ 0x1000 := by
  have := s.sp.isLt
  have hlt : s.sp.val - 1 < 16 := by omega
  have htop : s.top = s.stk.get ⟨s.sp.val - 1, hlt⟩ := by simp [State.top, Vector.get_eq_getElem, hlt]
  rw [htop]
  exact hstk _

theorem pcOk_skipIf (hs : s.PcFetched) (c : Bool) : (s.skipIf c).PcOk := by
  obtain ⟨hpc, -, hstk⟩ := hs
  have := toNat_add_two (a := s.pc) (by omega)
  exact pcOk_of_le (by rw [State.skipIf_pc]; split <;> omega) hstk

theorem pcOk_setPc_zextAddr (hstk : ∀ k : Fin 16, (s.stk.get k).toNat ≤ 0x1000) (nnn : Addr) : (s.setPc (zextAddr nnn)).PcOk := by
  have := zextAddr_toNat nnn
  have := nnn.isLt
  exact pcOk_of_le (by rw [State.setPc_pc]; omega) hstk

/-- Every jump lands where the invariant allows: at an address of the instruction, at a return address, or past a skip. -/
theorem pcOk_effect {i : Instr} (hs : s.PcFetched) (hwf : i.wellFormed s.cfg.extOps = true) : (effect i s).PcOk := by
  obtain ⟨hpc, hins, hstk⟩ := hs
  cases i
  case jp nnn => exact pcOk_setPc_zextAddr hstk nnn
  case call nnn =>
    refine pcOk_setPc_zextAddr (s := s.push s.pc) (fun k => ?_) nnn
    rw [stk_get_push]
    split
    · exact hpc
    · exact hstk k
  case ret => exact pcOk_of_le ((top_toNat_le hstk).trans (by omega)) hstk
  case seByte | sneByte | seReg | sneReg | skp | sknp => exact pcOk_skipIf (s := s) ⟨hpc, hins, hstk⟩ _
  case jpV0 nnn =>
    have hon : s.cfg.extOps.jpV0 = true := hwf
    have hsum := toNat_trunc16_addr_add_byte nnn (s.readV 0)
    have := nnn.isLt
    have := (s.readV 0).isLt
    refine ⟨fun hoff => absurd (hoff.symm.trans hon) (by decide), ?_, hstk⟩
    simp only [effect, State.setPc_pc]
    omega
  case ldVxK x =>
    refine pcOk_of_le ?_ hstk
    simp only [effect, State.writeV_pc, State.setPc_pc]
    split <;> omega
  all_goals
    refine pcOk_of_le ?_ ?_
    · simpa [effect] using hpc.trans (by omega)
    · simpa [effect] using hstk

theorem pcOk_step (hs : s.PcOk) (h : step s = .next t) : t.PcOk := by
  rcases step_cases h with ⟨-, rfl⟩ | ⟨-, -, rfl⟩ | ⟨-, w, r, hw, -, rfl⟩ | ⟨-, w, i, hw, hi, rfl⟩
  · exact hs
  · exact hs
  · obtain ⟨hpc, -, hstk⟩ := pcFetched_latch hs hw
    exact pcOk_of_le (hpc.trans (by omega)) hstk
  · rcases outcome_cases i (s.latch w) with ⟨c, ea, -, hout⟩ | ⟨-, hout⟩ <;> rw [hout]
    · exact hs
    · exact pcOk_effect (pcFetched_latch hs hw) (wellFormed_of_decodeWord (i := i) hi)

/-- A step reports, and then the report is the newest entry of the log, or its code is Ok. -/
theorem logOk_step (hs : s.LogOk) (h : step s = .next t) : t.LogOk := by
  rcases step_cases h with ⟨-, rfl⟩ | ⟨-, -, rfl⟩ | ⟨-, w, r, -, -, rfl⟩ | ⟨-, w, i, -, -, rfl⟩
  · exact hs
  · exact fun _ => rfl
  · exact fun _ => rfl
  · rcases outcome_cases i (s.latch w) with ⟨c, ea, -, hout⟩ | ⟨-, hout⟩ <;> rw [hout]
    · exact fun _ => rfl
    · exact fun hne => absurd rfl hne

theorem inv_step (hs : s.Inv) (h : step s = .next t) : t.Inv :=
  let ⟨hmem, hidx, hpc, hlog⟩ := hs
  ⟨memOk_step hmem h, indexOk_step hidx h, pcOk_step hpc h, logOk_step hlog h⟩

end

/-! ## The invariant: the other host operations -/

theorem inv_hostReset (s : State) : s.hostReset.Inv :=
  ⟨s.memOk_hostReset, fun _ => Nat.zero_le _, pcOk_of_le (Nat.le_of_ble_eq_true rfl) fun k => by simp [s.stk_get_hostReset k],
    fun hne => absurd rfl hne⟩

theorem inv_load {s : State} (hs : s.Inv) (bytes : List Byte) : (s.load bytes).Inv := by
  obtain ⟨hmem, hidx, hpc, -⟩ := id hs
  cases hb : s.busy with
  | true => rwa [load_of_busy hb]
  | false =>
    by_cases hlen : bytes.length ≤ 3584
    · obtain ⟨hrmem, hridx, hrpc, hrlog⟩ := inv_hostReset s
      rw [State.load_of_fits hb hlen]
      exact ⟨State.wf_writeBytes hrmem (image_fits hlen), hridx, hrpc, hrlog⟩
    · rw [State.load_of_tooLarge hb (by omega)]
      exact ⟨hmem, hidx, hpc, fun _ => rfl⟩

/-- Settles O49: the reset state lists no memory cell, and its registers are in their ranges. -/
theorem invariantHoldsAtReset : Obligations.InvariantHoldsAtReset := ⟨inv_hostReset State.reset, inv_hostReset⟩

/-- Settles O50, by the host operation: a tick and a sample touch no part the invariant speaks of. -/
theorem everyHostOperationKeepsTheInvariant : Obligations.EveryHostOperationKeepsTheInvariant := by
  intro op s t hs h
  cases op
  case step => exact inv_step hs h
  case reset => exact Host.Outcome.next.inj h ▸ inv_hostReset s
  case load bytes => exact Host.Outcome.next.inj h ▸ inv_load hs bytes
  case tick | supplyKeys | supplyRnd => exact Host.Outcome.next.inj h ▸ hs

end Sys2Proof.Machine
end

section
/-! SUPPORT. The statements about one step as a whole (spec/40_step_cycle.md section 2, spec/60_exceptions.md section 1): what it runs,
what it reports and in which order, and that it always answers a next state. -/

namespace Sys2Proof.Machine

/-! ## What a step runs (R112, R117) -/

theorem decodeWord_of_decode {e : ExtOps} {hi lo : Byte} {rest : List Byte} {i : Instr}
    (h : decode e (hi :: lo :: rest) = .ok (i, rest)) : decodeWord e (wordOfBytes hi lo) = .ok i := by
  cases hd : decodeWord e (wordOfBytes hi lo) <;> simp_all [decode]

/-- Settles O8: the latched state is the one in which only PC, the word and its address have changed. -/
theorem stepRunsTheDecodedInstruction : Obligations.StepRunsTheDecodedInstruction := by
  intro s i rest hb hpc _ hdec
  have hw := (fetchWord_eq_some s _).2 ⟨hpc, rfl⟩
  exact ⟨_, by rw [step_of_decode hb hw (decodeWord_of_decode hdec), exec_eq], rfl, rfl, rfl, rfl⟩

theorem step_total (s : State) : ∃ t, step s = .next t := by
  cases hb : s.busy with
  | true => exact ⟨s, step_of_busy hb⟩
  | false =>
    cases hw : s.fetchWord with
    | none => exact ⟨_, step_of_fetchFault hb hw⟩
    | some w =>
      cases hd : decodeWord s.cfg.extOps w with
      | error r => exact ⟨_, step_of_unrecognized hb hw hd⟩
      | ok i => exact ⟨_, step_of_decode hb hw hd⟩

theorem hostOp_total (op : HostOp) (s : State) : ∃ t, hostOp op s = .next t := by
  cases op
  case step => exact step_total s
  all_goals exact ⟨_, rfl⟩

theorem hostRun_total (ops : List HostOp) (s : State) : ∃ t, hostRun ops s = .next t := by
  induction ops generalizing s with
  | nil => exact ⟨s, rfl⟩
  | cons op ops ih =>
    obtain ⟨u, hu⟩ := hostOp_total op s
    simpa only [hostRun, hu] using ih u

theorem outcome_hid (i : Instr) (s : State) : (outcome i s).hid = s.hid := by
  rcases outcome_cases i s with ⟨c, ea, -, hout⟩ | ⟨-, hout⟩ <;> rw [hout]
  · rfl
  · exact effect_hid i s

/-- The atomic step moves no control state of the FSM. -/
theorem step_ctl {s t : State} (h : step s = .next t) : t.hid.ctl = s.hid.ctl := by
  rcases step_cases h with ⟨-, rfl⟩ | ⟨-, -, rfl⟩ | ⟨-, w, r, -, -, rfl⟩ | ⟨-, w, i, -, -, rfl⟩
  · rfl
  · rfl
  · rfl
  · rw [outcome_hid]
    rfl

theorem busy_load {s : State} (hb : s.busy = false) (bytes : List Byte) : (s.load bytes).busy = false := by
  by_cases hlen : bytes.length ≤ 3584
  · rw [State.load_of_fits hb hlen]
    rfl
  · rw [State.load_of_tooLarge hb (by omega)]
    exact hb

theorem busy_hostOp {op : HostOp} {s t : State} (hb : s.busy = false) (h : hostOp op s = .next t) : t.busy = false := by
  cases op
  case step => rwa [State.busy, step_ctl h]
  case reset => cases h; rfl
  case load bytes => cases h; exact busy_load hb bytes
  case tick | supplyKeys | supplyRnd => cases h; exact hb

theorem busy_cycle_of_done {s : State} (hd : s.hid.ctl = .done) (p : Pins) : (cycle p s).busy = false := by
  have hnext : fsmNext p s = s.goto .idle := by simp only [fsmNext, hd]
  unfold cycle
  rw [hnext]
  split
  · rfl
  · split <;> rfl

/-- Settles O13: every branch of a step answers a next state, and none moves the control state. -/
theorem coreNeverHalts : Obligations.CoreNeverHalts :=
  ⟨step_total, fun i s => ⟨_, exec_eq i s⟩, hostRun_total, fun _ _ _ => busy_hostOp, fun p _ hd => busy_cycle_of_done hd p⟩

/-! ## What a step reports (R31, R301) -/

/-- The code an instruction reports is that of its guard. -/
theorem outcome_code (i : Instr) (s : State) : (outcome i s).status.code = ((guardOf i s).map Prod.fst).getD .ok := by
  rcases outcome_cases i s with ⟨c, ea, hg, hout⟩ | ⟨hg, hout⟩ <;> rw [hout, hg] <;> rfl

theorem guardCode_window (s : State) (last : Nat) :
    ((((s.windowFault 0 last).map fun ea => (Code.memoryOutOfBounds, ea)).map Prod.fst).getD .ok) =
      if s.idx.toNat + last > 0xFFF then .memoryOutOfBounds else .ok := by
  unfold State.windowFault
  split <;> rfl

theorem guardCode_drw (s : State) (n : Fin 16) :
    ((((s.drawFault n).map fun ea => (Code.memoryOutOfBounds, ea)).map Prod.fst).getD .ok) =
      if 1 ≤ n.val ∧ s.idx.toNat + n.val - 1 > 0xFFF then .memoryOutOfBounds else .ok := by
  unfold State.drawFault
  split
  case isTrue hn => rw [if_neg (by omega)]; rfl
  case isFalse hn =>
    rw [guardCode_window]
    exact if_congr (by omega) rfl rfl

/-- Settles O15, by the branches of the step; past the decoder the code is that of the guard. -/
theorem conditionPriority : Obligations.ConditionPriority := by
  intro s t hb h
  rcases step_cases h with ⟨hb', -⟩ | ⟨-, hf, rfl⟩ | ⟨-, w, r, hw, hr, rfl⟩ | ⟨-, w, i, hw, hi, rfl⟩
  · simp [hb] at hb'
  · rw [if_pos ((fetchWord_eq_none s).1 hf)]
    rfl
  · have hnext : s.nextInstr = none := by simp only [State.nextInstr, hw, hr]
    rw [if_neg (Nat.not_lt.2 ((fetchWord_eq_some s w).1 hw).1), hnext]
    rfl
  · rw [if_neg (Nat.not_lt.2 ((fetchWord_eq_some s w).1 hw).1), nextInstr_of_decode hw hi, outcome_code]
    cases i
    case call | ret => exact apply_ite (fun g => (Option.map Prod.fst g).getD Code.ok) _ _ _
    case ldB | dump | load => exact guardCode_window ..
    case drw => exact guardCode_drw ..
    all_goals rfl

/-- Settles O9: the fetch bound is the first check, and no later one reports its code. -/
theorem fetchBound : Obligations.FetchBound := by
  refine ⟨fun s hb hpc => ⟨_, step_of_fetchFault hb ((fetchWord_eq_none s).2 hpc), rfl, rfl, keeps_fetchFault s⟩, ?_⟩
  intro s t hb hpc h hcode
  rcases errorStep_cases hb h (by simp [hcode]) (by simp [hcode]) with ⟨hf, -⟩ | ⟨w, i, c, ea, -, -, hg, rfl⟩
  · have := (fetchWord_eq_none s).1 hf
    omega
  · obtain rfl : c = .fetchOutOfBounds := hcode
    simpa using guardOf_eq_some hg

/-- Settles O16, by the branches of the step and, past the decoder, those of the guard. -/
theorem statusAndLogRecordTheStep : Obligations.StatusAndLogRecordTheStep := by
  intro s t hb h
  rcases step_cases h with ⟨hb', -⟩ | ⟨-, hf, rfl⟩ | ⟨-, w, r, hw, -, rfl⟩ | ⟨-, w, i, hw, -, rfl⟩
  · simp [hb] at hb'
  · exact ⟨rfl, rfl, by rw [hf]; rfl, by simp, toNat_ofNat_max_memSize s.pc⟩
  · exact ⟨rfl, rfl, by rw [hw]; rfl, by simp, rfl⟩
  · rcases outcome_cases i (s.latch w) with ⟨c, ea, hg, hout⟩ | ⟨-, hout⟩ <;> rw [hout]
    · rcases guardOf_eq_some hg with ⟨rfl | rfl, rfl⟩ | ⟨rfl, rfl⟩
      · exact ⟨rfl, rfl, by rw [hw]; rfl, by simp, rfl⟩
      · exact ⟨rfl, rfl, by rw [hw]; rfl, by simp, rfl⟩
      · exact ⟨rfl, rfl, by rw [hw]; rfl, by simp, toNat_ofNat_max_memSize s.idx⟩
    · simp [hw]

/-! ## An error recurs (R117) -/

/-- A guard reads I and SP alone. -/
theorem guardOf_congr (i : Instr) {s t : State} (hidx : s.idx = t.idx) (hsp : s.sp = t.sp) : guardOf i s = guardOf i t := by
  cases i
  case call | ret => simp only [guardOf, hsp]
  case ldB | dump | load => simp only [guardOf, State.windowFault, hidx]
  case drw => simp only [guardOf, State.drawFault, State.windowFault, hidx]
  all_goals rfl

/-- Settles O12: the error commit restores PC, I and SP, so the next step takes the same branch. -/
theorem errorRecursOnNextStep : Obligations.ErrorRecursOnNextStep := by
  intro s t hb h hok hun
  have hbt : t.busy = false := by rwa [State.busy, step_ctl h]
  rcases errorStep_cases hb h hok hun with ⟨hf, rfl⟩ | ⟨w, i, c, ea, hw, hi, hg, rfl⟩
  · exact ⟨_, step_of_fetchFault hbt hf, rfl, rfl, keeps_fetchFault _⟩
  · have hg' : guardOf i (((s.latch w).raise c ea).latch w) = some (c, ea) := hg ▸ guardOf_congr i rfl rfl
    refine ⟨(((s.latch w).raise c ea).latch w).raise c ea, ?_, rfl, rfl, keeps_raise_latch ..⟩
    rw [step_of_decode hbt hw hi, outcome_of_guard_some hg']

end Sys2Proof.Machine
end

section
/-! SUPPORT. The noninterference statements (spec/10_state.md sections 5, 6 and 9, spec/45_timers.md): a part that no instruction reads
can be replaced before a step. The fetch, the decoder and the guards read none of these parts, so both steps take the same branch
(`step_lockstep`); what is left is one lemma about `effect` for each part. -/

namespace Sys2Proof.Machine

/-- Two states alike in what the fetch, the decoder and the guards read take the same branch of the step. -/
theorem step_lockstep {s s' t : State} (h : step s = .next t) (hcfg : s'.cfg = s.cfg) (hpc : s'.pc = s.pc)
    (hmem : s'.mem = s.mem) (hidx : s'.idx = s.idx) (hsp : s'.sp = s.sp) (hhid : s'.hid = s.hid) :
    (s.busy = true ∧ t = s ∧ step s' = .next s') ∨
    (t = s.fetchFault ∧ step s' = .next s'.fetchFault) ∨
    (∃ w, t = (s.latch w).unrecognized ∧ step s' = .next (s'.latch w).unrecognized) ∨
    (∃ w i c ea, guardOf i (s.latch w) = some (c, ea) ∧ t = (s.latch w).raise c ea ∧ step s' = .next ((s'.latch w).raise c ea)) ∨
    ∃ w i, decodeWord s.cfg.extOps w = .ok i ∧ guardOf i (s.latch w) = none ∧ t = (effect i (s.latch w)).commitOk ∧
      step s' = .next (effect i (s'.latch w)).commitOk := by
  have hbusy : s'.busy = s.busy := by rw [State.busy, State.busy, hhid]
  have hfetch : s'.fetchWord = s.fetchWord := by simp only [State.fetchWord, State.readByte, hpc, hcfg, hmem]
  have hdec (w : Word) : decodeWord s'.cfg.extOps w = decodeWord s.cfg.extOps w := by rw [hcfg]
  rcases step_cases h with ⟨hb, rfl⟩ | ⟨hb, hf, rfl⟩ | ⟨hb, w, r, hw, hr, rfl⟩ | ⟨hb, w, i, hw, hi, rfl⟩
  · exact .inl ⟨hb, rfl, step_of_busy (hbusy.trans hb)⟩
  · exact .inr (.inl ⟨rfl, step_of_fetchFault (hbusy.trans hb) (hfetch.trans hf)⟩)
  · exact .inr (.inr (.inl ⟨w, rfl, step_of_unrecognized (hbusy.trans hb) (hfetch.trans hw) ((hdec w).trans hr)⟩))
  · have hstep := step_of_decode (hbusy.trans hb) (hfetch.trans hw) ((hdec w).trans hi)
    have hguard : guardOf i (s'.latch w) = guardOf i (s.latch w) := guardOf_congr i hidx hsp
    rcases outcome_cases i (s.latch w) with ⟨c, ea, hg, hout⟩ | ⟨hg, hout⟩
    · rw [outcome_of_guard_some (hguard.trans hg)] at hstep
      exact .inr (.inr (.inr (.inl ⟨w, i, c, ea, hg, hout, hstep⟩)))
    · rw [outcome_of_guard_none (hguard.trans hg)] at hstep
      exact .inr (.inr (.inr (.inr ⟨w, i, hi, hg, hout, hstep⟩)))

/-! ## STATUS and the log (R31) -/

theorem effect_with_status_log (i : Instr) (s : State) (q : Status) (l : List Status) :
    effect i { s with status := q, log := l } = { effect i s with status := q, log := l } := by
  cases i <;> rfl

/-- Settles O53: every effect commutes with the replacement, and every branch writes STATUS. -/
theorem noInstructionReadsStatus : Obligations.NoInstructionReadsStatus := by
  intro s t q l hb h
  rcases step_lockstep h (s' := { s with status := q, log := l }) rfl rfl rfl rfl rfl rfl with
    ⟨hb', -⟩ | ⟨rfl, hstep⟩ | ⟨w, rfl, hstep⟩ | ⟨w, i, c, ea, hg, rfl, hstep⟩ | ⟨w, i, -, -, rfl, hstep⟩
  · simp [hb] at hb'
  · exact hstep
  · exact hstep
  · rcases guardOf_eq_some hg with ⟨rfl | rfl, -⟩ | ⟨rfl, -⟩ <;> exact hstep
  · have heff := effect_with_status_log i (s.latch w) q l
    exact hstep.trans (congrArg (fun u : State => Host.Outcome.next u.commitOk) heff)

/-! ## The timers (R235) -/

/-- An effect other than that of LD Vx, DT leaves each timer as it was, or at a value that depends on neither. -/
theorem effect_with_timers {i : Instr} (hi : ∀ x, i ≠ .ldVxDT x) (s : State) (dt st : Byte) :
    ∃ dt' st', effect i { s with dt := dt, st := st } = { effect i s with dt := dt', st := st' } ∧
      (dt' = (effect i s).dt ∨ (dt' = dt ∧ (effect i s).dt = s.dt)) ∧
      (st' = (effect i s).st ∨ (st' = st ∧ (effect i s).st = s.st)) := by
  cases i
  case ldVxDT x => exact absurd rfl (hi x)
  case ldDT x => exact ⟨s.readV x, st, rfl, .inl rfl, .inr ⟨rfl, rfl⟩⟩
  case ldST x => exact ⟨dt, s.readV x, rfl, .inr ⟨rfl, rfl⟩, .inl rfl⟩
  all_goals exact ⟨dt, st, rfl, .inr ⟨rfl, by simp [effect]⟩, .inr ⟨rfl, by simp [effect]⟩⟩

/-- Settles O54: without LD_VX_DT the decoder does not give LD Vx, DT. -/
theorem timersAreUnreadByDefault : Obligations.TimersAreUnreadByDefault := by
  intro s t dt st hoff h
  rcases step_lockstep h (s' := { s with dt := dt, st := st }) rfl rfl rfl rfl rfl rfl with
    ⟨-, rfl, hstep⟩ | ⟨rfl, hstep⟩ | ⟨w, rfl, hstep⟩ | ⟨w, i, c, ea, -, rfl, hstep⟩ | ⟨w, i, hi, -, rfl, hstep⟩
  · exact ⟨_, hstep, rfl, .inr ⟨rfl, rfl⟩, .inr ⟨rfl, rfl⟩⟩
  · exact ⟨_, hstep, rfl, .inr ⟨rfl, rfl⟩, .inr ⟨rfl, rfl⟩⟩
  · exact ⟨_, hstep, rfl, .inr ⟨rfl, rfl⟩, .inr ⟨rfl, rfl⟩⟩
  · exact ⟨_, hstep, rfl, .inr ⟨rfl, rfl⟩, .inr ⟨rfl, rfl⟩⟩
  · have hne : ∀ x, i ≠ .ldVxDT x := by
      rintro x rfl
      have hon : s.cfg.extOps.ldVxDt = true := wellFormed_of_decodeWord hi
      exact absurd (hoff.symm.trans hon) (by decide)
    obtain ⟨dt', st', heff, hdt, hst⟩ := effect_with_timers hne (s.latch w) dt st
    exact ⟨_, hstep.trans (congrArg (fun u : State => Host.Outcome.next u.commitOk) heff), rfl, hdt, hst⟩

/-! ## The stack (R27) -/

/-- Two stacks agree below an SP. -/
def AgreeBelow (sp : Fin 17) (stk stk' : Vector Word 16) : Prop := ∀ k : Fin 16, k.val < sp.val → stk.get k = stk'.get k

section
variable {s : State} {stk : Vector Word 16}

/-- The entry that `push` makes visible is the one it writes. -/
theorem agreeBelow_push (hsp : s.sp.val < 16) (hstk : AgreeBelow s.sp stk s.stk) (a : Word) :
    AgreeBelow (s.push a).sp (State.push a { s with stk := stk }).stk (s.push a).stk := by
  intro k hk
  rw [sp_push hsp] at hk
  rw [stk_get_push, stk_get_push]
  split
  case isTrue => rfl
  case isFalse hne => exact hstk k (Nat.lt_of_le_of_ne (Nat.le_of_lt_succ hk) hne)

/-- The entry that `pop` returns lies below SP. -/
theorem top_of_agreeBelow (hsp : s.sp.val ≠ 0) (hstk : AgreeBelow s.sp stk s.stk) : ({ s with stk := stk } : State).top = s.top := by
  obtain ⟨n, hn⟩ := Nat.exists_eq_succ_of_ne_zero hsp
  have := s.sp.isLt
  let k : Fin 16 := ⟨n, by omega⟩
  rw [top_eq_get (s := { s with stk := stk }) (k := k) hn, top_eq_get (k := k) hn]
  exact hstk k (by rw [hn]; exact Nat.lt_succ_self n)

/-- No effect that its guard lets pass reads an entry at or above SP, and none makes a stale one visible. -/
theorem effect_with_stk {i : Instr} (hg : guardOf i s = none) (hstk : AgreeBelow s.sp stk s.stk) :
    ∃ stk', effect i { s with stk := stk } = { effect i s with stk := stk' } ∧ AgreeBelow (effect i s).sp stk' (effect i s).stk := by
  have hlt := s.sp.isLt
  cases i
  case call nnn =>
    have hne : s.sp.val ≠ 16 := fun h => by simp [guardOf, h] at hg
    exact ⟨_, rfl, agreeBelow_push (by omega) hstk s.pc⟩
  case ret =>
    have hne : s.sp.val ≠ 0 := fun h => by simp [guardOf, h] at hg
    refine ⟨stk, by simp only [effect, top_of_agreeBelow hne hstk]; rfl, fun k hk => hstk k ?_⟩
    rw [effect, State.setPc_sp, sp_dropTop (n := s.sp.val - 1) (by omega)] at hk
    omega
  all_goals exact ⟨stk, rfl, by simpa [effect] using hstk⟩

end

/-- Settles O55: RET reads the entry below SP, and CALL writes the entry it makes visible. -/
theorem staleStackEntriesAreUnobservable : Obligations.StaleStackEntriesAreUnobservable := by
  intro s t stk hstk h
  rcases step_lockstep h (s' := { s with stk := stk }) rfl rfl rfl rfl rfl rfl with
    ⟨-, rfl, hstep⟩ | ⟨rfl, hstep⟩ | ⟨w, rfl, hstep⟩ | ⟨w, i, c, ea, -, rfl, hstep⟩ | ⟨w, i, -, hg, rfl, hstep⟩
  · exact ⟨_, hstep, rfl, hstk⟩
  · exact ⟨_, hstep, rfl, hstk⟩
  · exact ⟨_, hstep, rfl, hstk⟩
  · exact ⟨_, hstep, rfl, hstk⟩
  · obtain ⟨stk', heff, hagree⟩ := effect_with_stk (s := s.latch w) hg hstk
    exact ⟨_, hstep.trans (congrArg (fun u : State => Host.Outcome.next u.commitOk) heff), rfl, hagree⟩

end Sys2Proof.Machine
end

section
/-! SUPPORT. Statements about two operations in a row: a dump and then a load or a fetch (spec/43_memory_index.md R195,
spec/20_memory.md R61), two draws of one sprite (spec/44_display.md R214), a load of a ROM and its first step
(spec/70_reset_and_hazards.md R335); and the two forms of the compositor (R213). -/

namespace Sys2Proof.Machine

/-! ## A dump, then a load or a fetch -/

theorem readByte_congr {s t : State} (hcfg : s.cfg = t.cfg) (hmem : s.mem = t.mem) (a : Nat) : s.readByte a = t.readByte a := by
  rw [State.readByte, State.readByte, hcfg, hmem]

/-- `exec` answers one state. -/
theorem eq_of_exec {i : Instr} {s t t' : State} (h : exec i s = .next t) (h' : exec i s = .next t') : t = t' :=
  Host.Outcome.next.inj (h.symm.trans h')

/-- A dump whose window reaches above 0xFFF raises. -/
theorem dump_status_of_over {x : Reg} {s t : State} (h : exec (.dump x) s = .next t) (hover : s.idx.toNat + x.val > 0xFFF) :
    t.status.code = .memoryOutOfBounds ∧ t.idx = s.idx := by
  obtain ⟨t', ht', hst, -, -, -, -, -, hidx, -⟩ := dumpStoresTheRegisters.2.2 x s hover
  obtain rfl := eq_of_exec h ht'
  exact ⟨by rw [hst], hidx rfl⟩

/-- A dump whose window lies inside memory completes with V0..Vx there. -/
theorem dump_of_fits {x : Reg} {s t : State} (hs : s.MemOk) (h : exec (.dump x) s = .next t) (hfit : s.idx.toNat + x.val ≤ 0xFFF) :
    t.status.code = .ok ∧ t.idx = s.idx ∧ ∀ r : Reg, r ≤ x → t.readByte (s.idx.toNat + r.val) = s.readV r := by
  obtain ⟨t', ⟨ht', hst⟩, hbytes, -, -, -, -, hidx, -⟩ := dumpStoresTheRegisters.2.1 x s hs hfit
  obtain rfl := eq_of_exec h ht'
  exact ⟨by rw [hst]; rfl, hidx rfl, hbytes⟩

/-- Settles O31: the load has the window of the dump, and reads there what the dump stored. -/
theorem dumpThenLoadRoundTrips : Obligations.DumpThenLoadRoundTrips := by
  intro x s t m u hs ht hcfg hmem hidx hu
  by_cases hfit : s.idx.toNat + x.val ≤ 0xFFF
  · obtain ⟨hok, hidx', hbytes⟩ := dump_of_fits hs ht hfit
    have hm : m.idx = s.idx := hidx.trans hidx'
    obtain ⟨u', ⟨hu', hst⟩, hregs, -⟩ := loadReadsTheRegisters.2.1 x m (by rwa [hm])
    obtain rfl := eq_of_exec hu hu'
    refine ⟨fun _ => ⟨by rw [hst]; rfl, fun r hr => ?_⟩, fun hc => absurd (hok.symm.trans hc) (by decide), .inl hok⟩
    rw [hregs, if_pos hr, hm, readByte_congr hcfg hmem, hbytes r hr]
  · obtain ⟨hoob, hidx'⟩ := dump_status_of_over ht (by omega)
    obtain ⟨u', hu', hst, -⟩ := loadReadsTheRegisters.2.2 x m (by rw [hidx, hidx']; omega)
    obtain rfl := eq_of_exec hu hu'
    exact ⟨fun hc => absurd (hoob.symm.trans hc) (by decide), fun _ => by rw [hst], .inr hoob⟩

/-- Settles O32: the two bytes at PC are two that the dump stored. -/
theorem fetchSeesDumpedBytes : Obligations.FetchSeesDumpedBytes := by
  intro x s t m r q hs ht hok hcfg hmem hq hqr hpc
  have hqx : q.val ≤ x.val := hq
  by_cases hfit : s.idx.toNat + x.val ≤ 0xFFF
  · obtain ⟨-, -, hbytes⟩ := dump_of_fits hs ht hfit
    refine (fetchWord_eq_some m _).2 ⟨by omega, ?_⟩
    rw [hpc, Nat.add_assoc, ← hqr, readByte_congr hcfg hmem, readByte_congr hcfg hmem, hbytes q hq,
      hbytes r (show r.val ≤ x.val by omega)]
  · obtain ⟨hoob, -⟩ := dump_status_of_over ht (by omega)
    exact absurd (hoob.symm.trans hok) (by decide)

/-! ## The row form of the compositor (R213) -/

/-- Bit `63 - qx` of the mask is the sprite's bit for column `qx`. -/
theorem rowMask_bit (b : Byte) {x0 qx : Nat} (hx : qx < 64) :
    (rowMask b x0).getLsbD (63 - qx) = (decide (x0 ≤ qx ∧ qx < x0 + 8) && b.getLsbD (7 - (qx - x0))) := by
  unfold rowMask
  rw [BitVec.getLsbD_ushiftRight, BitVec.getLsbD_shiftLeft, BitVec.getLsbD_setWidth]
  by_cases hin : x0 ≤ qx ∧ qx < x0 + 8
  · rw [show x0 + (63 - qx) - 56 = 7 - (qx - x0) by omega]
    simp only [hin, show x0 + (63 - qx) < 64 by omega, show ¬ x0 + (63 - qx) < 56 by omega, show 7 - (qx - x0) < 64 by omega,
      decide_true, decide_false, Bool.not_false, Bool.true_and, and_self]
  · simp only [hin, decide_false, Bool.false_and]
    by_cases hmask : x0 + (63 - qx) < 64
    · simp [hmask, show x0 + (63 - qx) < 56 by omega]
    · simp [hmask]

/-- A row meets a mask where some column of both is on. -/
theorem and_bne_zero_iff (row mask : BitVec 64) :
    (row &&& mask != 0) = true ↔ ∃ qx, qx < 64 ∧ mask.getLsbD (63 - qx) = true ∧ row.getLsbD (63 - qx) = true := by
  rw [bne_iff_ne]
  constructor
  · intro hne
    by_contra hno
    refine hne (BitVec.eq_of_getLsbD_eq fun i hi => ?_)
    change _ = (0#64).getLsbD i
    rw [BitVec.getLsbD_and, BitVec.getLsbD_zero, ← Bool.not_eq_true, Bool.and_eq_true]
    rintro ⟨hrow, hmask⟩
    exact hno ⟨63 - i, by omega, by rwa [show 63 - (63 - i) = i by omega], by rwa [show 63 - (63 - i) = i by omega]⟩
  · rintro ⟨qx, -, hmask, hrow⟩ hzero
    simpa [hmask, hrow] using congrArg (·.getLsbD (63 - qx)) hzero

section
variable (b : Byte) (x0 py : Nat) (k : Canvas)

/-- What composing a row does to the framebuffer. -/
theorem fbAt_composeRow {qx qy : Nat} (hqx : qx < 64) (hqy : qy < 32) :
    fbAt (composeRow b x0 py k).fb qx qy =
      (fbAt k.fb qx qy ^^ (decide (qy = py ∧ x0 ≤ qx ∧ qx < x0 + 8) && b.getLsbD (7 - (qx - x0)))) := by
  unfold composeRow
  rw [fbHeight_eq]
  split
  case isTrue hpy =>
    rw [fbAt_eq _ hqx, fbAt_eq _ hqx, fbRow_fbSetRow _ hpy]
    by_cases hrow : qy = py
    · rw [if_pos hrow, hrow, BitVec.getLsbD_xor, rowMask_bit b hqx]
      simp
    · simp [hrow]
  case isFalse hpy => simp [show qy ≠ py by omega]

/-- What composing a row does to the collision flag. -/
theorem coll_composeRow :
    (composeRow b x0 py k).coll = true ↔ k.coll = true ∨
      ∃ col, col < 8 ∧ b.getLsbD (7 - col) = true ∧ x0 + col < 64 ∧ py < 32 ∧ fbAt k.fb (x0 + col) py = true := by
  unfold composeRow
  rw [fbHeight_eq]
  split
  case isTrue hpy =>
    rw [Bool.or_eq_true, and_bne_zero_iff]
    refine or_congr_right ⟨?_, ?_⟩
    · rintro ⟨qx, hqx, hmask, hrow⟩
      rw [rowMask_bit b hqx, Bool.and_eq_true, decide_eq_true_eq] at hmask
      obtain ⟨⟨hlo, hhi⟩, hbit⟩ := hmask
      refine ⟨qx - x0, by omega, hbit, by omega, hpy, ?_⟩
      rwa [show x0 + (qx - x0) = qx by omega, fbAt_eq _ hqx]
    · rintro ⟨col, hcol, hbit, hqx, -, hon⟩
      refine ⟨x0 + col, hqx, ?_, by rwa [← fbAt_eq _ hqx]⟩
      rw [rowMask_bit b hqx, show x0 + col - x0 = col by omega, hbit]
      simp [hcol]
  case isFalse hpy => simp [hpy]

/-- Composing one row is plotting its eight columns: the same cells flip, and the same ones collide. -/
theorem composeRow_eq_plotRow : composeRow b x0 py k = plotRow b x0 py k := by
  obtain ⟨hfb, hcoll⟩ := plotRow_prefix b x0 py k 8
  have hfb' : (composeRow b x0 py k).fb = (plotRow b x0 py k).fb :=
    fb_ext fun qx qy hqx hqy => (fbAt_composeRow b x0 py k hqx hqy).trans (hfb qx qy hqx hqy).symm
  have hcoll' : (composeRow b x0 py k).coll = (plotRow b x0 py k).coll :=
    Bool.eq_iff_iff.2 ((coll_composeRow b x0 py k).trans hcoll.symm)
  calc composeRow b x0 py k = ⟨(composeRow b x0 py k).fb, (composeRow b x0 py k).coll⟩ := rfl
    _ = ⟨(plotRow b x0 py k).fb, (plotRow b x0 py k).coll⟩ := by rw [hfb', hcoll']

end

theorem composeSprite_eq_plotSprite (rows : List Byte) (x0 y0 : Nat) (k : Canvas) :
    composeSprite rows x0 y0 k = plotSprite rows x0 y0 k := by
  induction rows generalizing y0 k with
  | nil => rfl
  | cons b bs ih => rw [composeSprite, plotSprite, composeRow_eq_plotRow, ih]

/-- Settles O35: row by row the two forms are equal, whatever the start column. -/
theorem rowFormEqualsCellForm : Obligations.RowFormEqualsCellForm := fun rows x0 y0 k _ => composeSprite_eq_plotSprite rows x0 y0 k

/-! ## Two draws of one sprite (R214) -/

/-- A draw that completed has left its effect. -/
theorem drw_of_ok {x y : Reg} {n : Fin 16} {s t : State} (h : exec (.drw x y n) s = .next t) (hok : t.status.code = .ok) :
    guardOf (.drw x y n) s = none ∧ t = (effect (.drw x y n) s).commitOk := by
  obtain rfl := eq_of_exec h (exec_eq ..)
  rcases outcome_cases (.drw x y n) s with ⟨c, ea, hg, hout⟩ | h
  · rw [hout] at hok
    obtain rfl : c = .ok := hok
    simpa using guardOf_eq_some hg
  · exact h

/-- The sprite of a draw is its start and the bytes at I. -/
theorem spriteCovers_congr {s m : State} {x y x' y' : Reg} (hx : m.startX x' = s.startX x) (hy : m.startY y' = s.startY y)
    (hcfg : m.cfg = s.cfg) (hmem : m.mem = s.mem) (hidx : m.idx = s.idx) (n px py : Nat) :
    spriteCovers m x' y' n px py = spriteCovers s x y n px py := by
  simp only [spriteCovers_eq, hx, hy, hidx, readByte_congr hcfg hmem]

/-- Settles O36: flipping twice the same cells restores them, and a cell is on before the second draw where it was off before the
first. In the last clause four set bits of a glyph fall on cells that are on. -/
theorem drawingTwiceRestores : Obligations.DrawingTwiceRestores := by
  refine ⟨?_, ?_⟩
  · intro x y x' y' n s t m u ht hok hcfg hmem hidx hfb hx hy hu
    obtain ⟨hg, rfl⟩ := drw_of_ok ht hok
    obtain rfl := eq_of_exec hu (exec_eq ..)
    have hidx : m.idx = s.idx := hidx
    have hg' : guardOf (.drw x' y' n) m = none := by
      rw [← hg]
      simp only [guardOf, State.drawFault, State.windowFault, hidx]
    have hcov (px py : Nat) := spriteCovers_congr hx hy hcfg hmem hidx n.val px py
    have hfbAt {px py : Nat} (hpx : px < 64) (hpy : py < 32) :
        fbAt m.fb px py = (fbAt s.fb px py ^^ spriteCovers s x y n.val px py) := by
      rw [hfb]
      exact fbAt_effect_drw x y n s hpx hpy
    have hrestored : (effect (.drw x' y' n) m).fb = s.fb := fb_ext fun px py hpx hpy => by
      rw [fbAt_effect_drw x' y' n m hpx hpy, hcov, hfbAt hpx hpy, Bool.xor_assoc, Bool.xor_self, Bool.xor_false]
    rw [outcome_of_guard_none hg']
    refine ⟨fun c => congrArg (fbCell · c.val) hrestored, rfl, (readV_vf_effect_drw_eq_one x' y' n m).trans ?_,
      (readV_vf_effect_drw x' y' n m)⟩
    refine exists_congr fun px => exists_congr fun py => and_congr_right fun hpx => and_congr_right fun hpy => ?_
    rw [hcov, hfbAt hpx hpy]
    cases spriteCovers s x y n.val px py <;> simp
  · exact ⟨0, 1, 1, { State.reset with idx := 0x050, fb := Vector.replicate 32 (BitVec.allOnes 64) }, _, _, rfl, rfl, rfl, rfl,
      ⟨0, 0, by decide⟩, by decide⟩

/-! ## A load, then a jump (R335) -/

theorem fetchWord_image {s : State} {w : Word} {rest : List Byte} (hlen : rest.length ≤ 3582) :
    (s.hostReset.writeBytes 0x200 (bytesOfWord w ++ rest)).fetchWord = some w := by
  have himage : (bytesOfWord w ++ rest).length ≤ 3584 := by
    simp only [bytesOfWord, List.cons_append, List.nil_append, List.length_cons]
    omega
  have hpc : (s.hostReset.writeBytes 0x200 (bytesOfWord w ++ rest)).pc.toNat = 0x200 := rfl
  refine (fetchWord_eq_some ..).2 ⟨by omega, ?_⟩
  rw [hpc, State.readByte_image himage (by omega), State.readByte_image himage (by omega)]
  exact (wordOfBytes_bytes w).symm

/-- Settles O48: the first word of the image is fetched, and it is a jump. -/
theorem loadThenJump : Obligations.LoadThenJump := by
  intro s target rest hb hlen
  have hload : s.load (bytesOfWord (encode (.jp target)) ++ rest) =
      s.hostReset.writeBytes 0x200 (bytesOfWord (encode (.jp target)) ++ rest) :=
    State.load_of_fits hb (by simp only [bytesOfWord, List.cons_append, List.nil_append, List.length_cons]; omega)
  refine ⟨_, _, congrArg Host.Outcome.next hload, step_of_decode rfl (fetchWord_image hlen) (decodeWord_encode rfl), ?_⟩
  rw [outcome_of_guard_none rfl]
  exact ⟨zextAddr_toNat target, rfl, ((Keeps.refl _ _).setPc rfl _).commitOk⟩

end Sys2Proof.Machine
end

section
/-! SUPPORT. The control FSM through one step (spec/40_step_cycle.md R120, spec/70_reset_and_hazards.md R345): a small logic of quiet
cycles, and the cycles every step has, the fetch, DECODE and the last one before `done`. The instruction's own cycles come after. -/

namespace Sys2Proof.Machine

/-! ## Quiet cycles -/

/-- One cycle in which the host does nothing. -/
def quietCycle (s : State) : State := cycle Pins.quiet s

theorem quietCycle_eq (s : State) : quietCycle s = fsmNext Pins.quiet s := rfl

theorem runCycles_cons (p : Pins) (ps : List Pins) (s : State) : runCycles (p :: ps) s = runCycles ps (cycle p s) := rfl

theorem runCycles_append (ps qs : List Pins) (s : State) : runCycles (ps ++ qs) s = runCycles qs (runCycles ps s) :=
  List.foldl_append

theorem runCycles_quiet (n : Nat) (s : State) : runCycles (List.replicate n Pins.quiet) s = quietCycle^[n] s := by
  induction n generalizing s with
  | zero => rfl
  | succ n ih => rw [List.replicate_succ, runCycles_cons, ih, Function.iterate_succ_apply, quietCycle]

/-- In `n` quiet cycles the FSM comes from `u` to a state of `G`, and every state before it is one of `Q`. -/
def Leads (Q : State → Prop) (n : Nat) (u : State) (G : State → Prop) : Prop :=
  (∀ m < n, Q (quietCycle^[m] u)) ∧ G (quietCycle^[n] u)

section
variable {Q G H : State → Prop} {u : State} {m n c : Nat}

theorem Leads.zero (hu : G u) : Leads Q 0 u G := ⟨fun _ hm => absurd hm (Nat.not_lt_zero _), hu⟩

/-- One cycle. -/
theorem Leads.one (hu : Q u) (hg : G (quietCycle u)) : Leads Q 1 u G :=
  ⟨fun _ hm => by rwa [Nat.lt_one_iff.1 hm], hg⟩

/-- A cycle to a known state, and then the others. -/
theorem Leads.step {v : State} (hu : Q u) (hv : quietCycle u = v) (h : Leads Q n v G) : Leads Q (n + 1) u G := by
  subst hv
  refine ⟨fun m hm => ?_, h.2⟩
  cases m with
  | zero => exact hu
  | succ m => exact h.1 m (Nat.lt_of_succ_lt_succ hm)

/-- One run of cycles after another. -/
theorem Leads.bind (h : Leads Q m u G) (hg : ∀ v, G v → Leads Q n v H) : Leads Q (m + n) u H := by
  obtain ⟨hq, hm⟩ := h
  obtain ⟨hq', hn⟩ := hg _ hm
  refine ⟨fun k hk => ?_, by rwa [Nat.add_comm, Function.iterate_add_apply]⟩
  by_cases hkm : k < m
  · exact hq k hkm
  · obtain ⟨d, rfl⟩ := Nat.exists_eq_add_of_le (Nat.le_of_not_lt hkm)
    rw [Nat.add_comm, Function.iterate_add_apply]
    exact hq' d (by omega)

/-- A loop whose `j`-th pass of `c` cycles goes from `I j` to `I (j + 1)`. -/
theorem Leads.loop {I : Nat → State → Prop} (hpass : ∀ j < n, ∀ v, I j v → Leads Q c v (I (j + 1))) (hu : I 0 u) :
    Leads Q (n * c) u (I n) := by
  induction n with
  | zero => exact (Nat.zero_mul c).symm ▸ Leads.zero hu
  | succ n ih =>
    rw [Nat.succ_mul]
    exact (ih fun j hj => hpass j (by omega)).bind (hpass n (Nat.lt_succ_self n))

theorem Leads.imp (h : Leads Q n u G) (hg : ∀ v, G v → H v) : Leads Q n u H := ⟨h.1, hg _ h.2⟩

end

/-! ## Between two framebuffers -/

/-- The control states of a running step. -/
def Ctl.inStep : Ctl → Bool
  | .fCheck | .fHi | .fLo | .decode | .ex1 | .exMem | .exCls | .exDrw | .unrec | .commit | .err => true
  | .idle | .done | .ldCheck | .ldClear | .ldCopy => false

/-- Every cell of a framebuffer is that of `f` or that of `g`. -/
def OldOrNew (f g fb : Fb) : Prop := ∀ px py, px < 64 → py < 32 → fbAt fb px py = fbAt f px py ∨ fbAt fb px py = fbAt g px py

/-- The FSM is in a step, and each framebuffer cell has its value in `s` or in `t`. -/
def Between (s t u : State) : Prop := u.hid.ctl.inStep = true ∧ OldOrNew s.fb t.fb u.fb

section
variable {s t u : State}

theorem between_old (hc : u.hid.ctl.inStep = true) (hfb : u.fb = s.fb) : Between s t u := ⟨hc, fun _ _ _ _ => .inl (by rw [hfb])⟩

theorem between_new (hc : u.hid.ctl.inStep = true) (hfb : u.fb = t.fb) : Between s t u := ⟨hc, fun _ _ _ _ => .inr (by rw [hfb])⟩

theorem fbCell_eq_fbAt (fb : Fb) (c : Nat) : fbCell fb c = fbAt fb (c % 64) (c / 64) := by
  rw [fbAt]
  congr 1
  omega

end

/-! ## The fetch (R110) -/

theorem ctl_of_not_busy {s : State} (hb : s.busy = false) : s.hid.ctl = .idle := by simpa [State.busy] using hb

section
variable {s t : State} {w : Word}

theorem requestStep_eq (hb : s.busy = false) : requestStep s = { s with hid := { s.hid with pcInsn := s.pc, ctl := .fCheck } } := by
  have hnext : fsmNext { stepReq := true } s = fsmIdle { stepReq := true } s := by simp only [fsmNext, ctl_of_not_busy hb]
  exact hnext

/-- The FSM is in the control state `c` with the word `w`, fetched from PC, in IR; it has changed its own registers alone. -/
def Latched (s : State) (w : Word) (c : Ctl) (u : State) : Prop :=
  ∃ h : Hidden, u = { s with hid := h } ∧ h.ctl = c ∧ h.ir = w ∧ h.pcInsn = s.pc

/-- F_CHECK, F_HI and F_LO bring the word at PC into IR. -/
theorem leads_fetch (hb : s.busy = false) (hw : s.fetchWord = some w) :
    Leads (Between s t) 3 (requestStep s) (Latched s w .decode) := by
  obtain ⟨hpc, rfl⟩ := (fetchWord_eq_some s w).1 hw
  rw [requestStep_eq hb]
  have hcheck : quietCycle { s with hid := { s.hid with pcInsn := s.pc, ctl := .fCheck } } =
      { s with hid := { s.hid with pcInsn := s.pc, ramByte := s.readByte s.pc.toNat, ctl := .fHi } } := if_neg (Nat.not_lt.2 hpc)
  refine .step (between_old rfl rfl) hcheck (.step (between_old rfl rfl) rfl (.one (between_old rfl rfl) ⟨_, rfl, rfl, ?_, rfl⟩))
  exact congrArg (wordOfBytes · _) (highByte_wordOfBytes ..)

/-! ## DECODE and the last cycle before `done` -/

/-- The FSM pulses `done`, with the state of R20, the log and the samples of `t`. -/
def DoneWith (t u : State) : Prop := u.hid.ctl = .done ∧ u.arch = t.arch

/-- A fetch outside memory is reported by ERR. -/
theorem leads_fetchFault (hb : s.busy = false) (hw : s.fetchWord = none) :
    Leads (Between s s.fetchFault) 2 (requestStep s) (DoneWith s.fetchFault) := by
  rw [requestStep_eq hb]
  exact .step (between_old rfl rfl) (if_pos ((fetchWord_eq_none s).1 hw)) (.one (between_old rfl rfl) ⟨rfl, rfl⟩)

theorem Latched.between {c : Ctl} {u : State} (hu : Latched s w c u) (hc : c.inStep = true) : Between s t u := by
  obtain ⟨h, rfl, rfl, -, -⟩ := hu
  exact between_old hc rfl

theorem Latched.quietCycle_decode {u : State} (hu : Latched s w .decode u) : quietCycle u = fsmDecode u := by
  obtain ⟨h, rfl, hc, -, -⟩ := hu
  simp only [quietCycle_eq, fsmNext, hc]

theorem Latched.current {c : Ctl} {u : State} (hu : Latched s w c u) : u.current = decodeWord s.cfg.extOps w := by
  obtain ⟨h, rfl, -, rfl, -⟩ := hu
  rfl

/-- An unrecognized word is reported by UNREC. -/
theorem leads_unrecognized {u : State} {r : DecodeReject} (hu : Latched s w .decode u) (hr : decodeWord s.cfg.extOps w = .error r) :
    Leads (Between s t) 2 u (DoneWith (s.latch w).unrecognized) := by
  have hdec : quietCycle u = u.goto .unrec := by
    simp only [hu.quietCycle_decode, fsmDecode, hu.current, hr]
  refine .step (hu.between rfl) hdec ?_
  obtain ⟨h, rfl, -, rfl, hpc⟩ := hu
  refine .one (between_old rfl rfl) ⟨rfl, ?_⟩
  rw [State.latch, ← hpc]
  rfl

/-- A failing guard is reported by ERR. -/
theorem leads_raise {u : State} {i : Instr} {c : Code} {ea : Nat} (hu : Latched s w .decode u)
    (hi : decodeWord s.cfg.extOps w = .ok i) (hg : guardOf i (s.latch w) = some (c, ea)) :
    Leads (Between s t) 2 u (DoneWith ((s.latch w).raise c ea)) := by
  have hgu : guardOf i u = some (c, ea) := by
    rw [← hg]
    obtain ⟨h, rfl, -⟩ := hu
    exact guardOf_congr i rfl rfl
  have hdec : quietCycle u = u.fail { code := c, word := u.hid.ir, pc := u.hid.pcInsn, ea := BitVec.ofNat 17 ea } := by
    simp only [hu.quietCycle_decode, fsmDecode, hu.current, hi, hgu]
  refine .step (hu.between rfl) hdec ?_
  obtain ⟨h, rfl, -, rfl, hpc⟩ := hu
  refine .one (between_old rfl rfl) ⟨rfl, ?_⟩
  simp only [State.arch, State.fail]
  rw [hpc]
  rfl

/-- The FSM is in the first execute state of `i`, the counters at 0 and PC_insn + 2 in `pcNext`. -/
def AtExecute (s : State) (w : Word) (i : Instr) (u : State) : Prop :=
  Latched s w (firstEx i) u ∧ u.hid.pcNext = s.pc + 2 ∧ u.hid.row = 0 ∧ u.hid.coll = false ∧ u.hid.phase = 0 ∧ u.hid.k = 0

/-- Where the guard passes, DECODE leads to the first execute state. -/
theorem leads_execute {u : State} {i : Instr} (hu : Latched s w .decode u)
    (hi : decodeWord s.cfg.extOps w = .ok i) (hg : guardOf i (s.latch w) = none) :
    Leads (Between s t) 1 u (AtExecute s w i) := by
  have hgu : guardOf i u = none := by
    rw [← hg]
    obtain ⟨h, rfl, -⟩ := hu
    exact guardOf_congr i rfl rfl
  refine .one (hu.between rfl) ?_
  simp only [AtExecute, hu.quietCycle_decode, fsmDecode, hu.current, hi, hgu, and_true]
  obtain ⟨h, rfl, -, rfl, hpc⟩ := hu
  exact ⟨⟨_, rfl, rfl, rfl, hpc⟩, congrArg (· + 2) hpc⟩

/-! ## COMMIT (R113) -/

/-- The FSM is in COMMIT with the effect `e` of its instruction written, but for PC, which waits in `pcNext`. -/
def AtCommit (e u : State) : Prop :=
  ∃ (pc : Word) (h : Hidden), u = { e with pc := pc, hid := h } ∧ h.ctl = .commit ∧ h.ir = e.hid.ir ∧ h.pcInsn = e.hid.pcInsn ∧
    h.pcNext = e.pc

theorem AtCommit.between {e u : State} (hu : AtCommit e u) (hfb : e.fb = t.fb) : Between s t u := by
  obtain ⟨pc, h, rfl, hc, -⟩ := hu
  exact between_new (by simp only [hc]; rfl) hfb

/-- COMMIT writes PC and STATUS. A draw of no rows writes its VF here too, so it is left out (log entry 10). -/
theorem leads_commit {e u : State} {i : Instr} (hu : AtCommit e u) (hi : decodeWord e.cfg.extOps e.hid.ir = .ok i)
    (hne : ∀ x y n, i = .drw x y n → n.val ≠ 0) : Leads (Between s e.commitOk) 1 u (DoneWith e.commitOk) := by
  refine .one (hu.between rfl) ?_
  obtain ⟨pc, h, rfl, hc, hir, hins, hnext⟩ := hu
  have hcur : ({ e with pc := pc, hid := h } : State).current = .ok i := by rw [← hi, ← hir]; rfl
  have hcycle : quietCycle { e with pc := pc, hid := h } =
      (State.commitOk { e with pc := h.pcNext, hid := h }).goto .done := by
    simp only [quietCycle_eq, fsmNext, hc, fsmCommit, hcur]
    cases i
    case drw x y n => simp only [if_neg (hne x y n rfl)]
    all_goals rfl
  rw [hcycle]
  refine ⟨rfl, ?_⟩
  simp only [State.arch, State.commitOk, State.goto, hir, hins, hnext]

end

end Sys2Proof.Machine
end

section
/-! SUPPORT. The execute states of the control FSM (spec/40_step_cycle.md R120): each brings the FSM, in the cycles of R345, to COMMIT
with the effect of the instruction written. EX_MEM, EX_CLS and EX_DRW are loops; their invariants say how much has been written. -/

namespace Sys2Proof.Machine

/-! ## EX_1 -/

/-- Of the FSM's registers an effect reads `pcInsn` alone. -/
theorem effect_with_hid (i : Instr) {s : State} {h : Hidden} (hins : h.pcInsn = s.hid.pcInsn) :
    effect i { s with hid := h } = { effect i s with hid := h } := by
  cases i
  case ldVxK x => simp only [effect, hins]; rfl
  all_goals rfl

section
variable {s t u : State} {w : Word} {i : Instr}

theorem AtExecute.between (hu : AtExecute s w i u) : Between s t u := by
  refine hu.1.between ?_
  cases i
  case drw x y n => simp only [firstEx]; split <;> rfl
  all_goals rfl

theorem leads_ex1 (hu : AtExecute s w i u) (hi : decodeWord s.cfg.extOps w = .ok i) (hg : guardOf i (s.latch w) = none)
    (hex : firstEx i = .ex1) : Leads (Between s t) 1 u (AtCommit (effect i (s.latch w))) := by
  refine .one hu.between ?_
  obtain ⟨hl, -⟩ := hu
  have hcur := hl.current.trans hi
  obtain ⟨h, rfl, hc, hir, hins⟩ := hl
  have hlatch : ({ s with pc := h.pcInsn + 2, hid := h } : State) = { s.latch w with hid := h } := by rw [hins]; rfl
  have hgu : guardOf i { s.latch w with hid := h } = none := hg ▸ guardOf_congr i rfl rfl
  rw [quietCycle_eq, fsmNext_of_ex1 (hc.trans hex), fsmEx1_of_current hcur, hlatch, outcome_of_guard_none hgu,
    effect_with_hid i (s := s.latch w) hins]
  refine ⟨s.pc, { h with pcNext := (effect i (s.latch w)).pc, ctl := .commit }, ?_, rfl, ?_, ?_, rfl⟩
  · simp only [effect_status, effect_log]
    rfl
  · simp only [effect_hid]
    exact hir
  · simp only [effect_hid]
    exact hins

end

/-! ## EX_MEM: the two stores -/

theorem Memory.writeBytes_append (font : Font) (m : Memory) (a : Nat) (bs cs : List Byte) :
    Memory.writeBytes font m a (bs ++ cs) = Memory.writeBytes font (Memory.writeBytes font m a bs) (a + bs.length) cs := by
  induction bs generalizing m a with
  | nil => rfl
  | cons b bs ih =>
    rw [List.cons_append, Memory.writeBytes, ih, Memory.writeBytes, List.length_cons, Nat.add_right_comm, Nat.add_assoc]

/-- A store of `k + 1` bytes is a store of `k` and then of the next one. -/
theorem State.writeBytes_take_succ (s : State) (a : Nat) {bs : List Byte} {k : Nat} (hk : k < bs.length) :
    s.writeBytes a (bs.take (k + 1)) = (s.writeBytes a (bs.take k)).writeBytes (a + k) [bs.getD k 0] := by
  have hmem := Memory.writeBytes_append s.cfg.font s.mem a (bs.take k) [bs[k]]
  rw [List.length_take, Nat.min_eq_left hk.le, ← List.take_succ_eq_append_getElem hk] at hmem
  rw [List.getD_eq_getElem _ _ hk, State.writeBytes, hmem]
  rfl

section
variable {s t u : State} {w : Word} {i : Instr}

/-- The FSM in a transfer: `j` cycles of EX_MEM are done, of `n`, and the part `a` of the state is written. -/
def InTransfer (a : State) (s : State) (w : Word) (n j : Nat) (u : State) : Prop :=
  ∃ h : Hidden, u = { a with hid := h } ∧ h.ctl = (if j = n then .commit else .exMem) ∧ h.ir = w ∧ h.pcInsn = s.pc ∧
    h.pcNext = s.pc + 2 ∧ h.k = j

/-- A store writes its bytes one by one. -/
theorem leads_store {bs : List Byte} (hu : AtExecute s w i u) (hex : firstEx i = .exMem) (hlen : bs.length ≠ 0)
    (hbyte : ∀ (m : Memory) (h : Hidden), h.ctl = .exMem → h.ir = w → h.k < bs.length →
      quietCycle { s with mem := m, hid := h } = State.nextByte (decide (h.k + 1 = bs.length))
        (State.writeBytes (s.idx.toNat + h.k) [bs.getD h.k 0] { s with mem := m, hid := h })) :
    Leads (Between s t) bs.length u (AtCommit ((s.latch w).writeBytes s.idx.toNat bs)) := by
  have hloop : Leads (Between s t) (bs.length * 1) u
      (InTransfer (s.writeBytes s.idx.toNat (bs.take bs.length)) s w bs.length bs.length) := by
    refine Leads.loop (I := fun j => InTransfer (s.writeBytes s.idx.toNat (bs.take j)) s w bs.length j) ?_ ?_
    · rintro j hj _ ⟨h, rfl, hc, hir, hins, hnext, rfl⟩
      rw [if_neg hj.ne] at hc
      refine .one (between_old (by simp only [hc]; rfl) rfl) ?_
      have hcycle := hbyte (Memory.writeBytes s.cfg.font s.mem s.idx.toNat (bs.take h.k)) h hc hir hj
      refine ⟨{ h with k := h.k + 1, ctl := if h.k + 1 = bs.length then .commit else .exMem }, hcycle.trans ?_, rfl, hir, hins,
        hnext, rfl⟩
      rw [State.writeBytes_take_succ s s.idx.toNat hj]
      simp only [State.nextByte, decide_eq_true_eq]
      rfl
    · obtain ⟨⟨h, rfl, hc, hir, hins⟩, hnext, -, -, -, hk⟩ := hu
      exact ⟨h, rfl, by rw [hc, hex, if_neg hlen.symm], hir, hins, hnext, hk⟩
  rw [Nat.mul_one, List.take_length] at hloop
  refine hloop.imp ?_
  rintro _ ⟨h, rfl, hc, hir, hins, hnext, -⟩
  exact ⟨s.pc, h, rfl, by rw [hc, if_pos rfl], hir, hins, hnext⟩

theorem quietCycle_exMem {u : State} (hc : u.hid.ctl = .exMem) : quietCycle u = fsmExMem u := by
  simp only [quietCycle_eq, fsmNext, hc]

theorem leads_ldB {x : Reg} (hu : AtExecute s w (.ldB x) u) (hi : decodeWord s.cfg.extOps w = .ok (.ldB x)) :
    Leads (Between s t) 3 u (AtCommit (effect (.ldB x) (s.latch w))) := by
  refine leads_store (bs := bcdDigits (s.readV x)) hu rfl (by simp [length_bcdDigits]) fun m h hc hir hk => ?_
  have hcur : ({ s with mem := m, hid := h } : State).current = .ok (.ldB x) := by rw [← hi, ← hir]; rfl
  rw [quietCycle_exMem hc, fsmExMem, hcur, length_bcdDigits, decide_eq_decide.2 Nat.succ_inj]
  rfl

theorem leads_dump {x : Reg} (hu : AtExecute s w (.dump x) u) (hi : decodeWord s.cfg.extOps w = .ok (.dump x)) :
    Leads (Between s t) (x.val + 1) u (AtCommit (effect (.dump x) (s.latch w))) := by
  rw [← s.length_regsUpTo x]
  refine leads_store (bs := s.regsUpTo x) hu rfl (by simp [s.length_regsUpTo]) fun m h hc hir hk => ?_
  rw [s.length_regsUpTo] at hk
  have hcur : ({ s with mem := m, hid := h } : State).current = .ok (.dump x) := by rw [← hi, ← hir]; rfl
  have hreg : s.readV (Fin.ofNat 16 h.k) = (s.regsUpTo x).getD h.k 0 := by
    have := x.isLt
    have hval : (Fin.ofNat 16 h.k).val = h.k := Nat.mod_eq_of_lt (by omega)
    rw [← s.getD_regsUpTo x (Fin.ofNat 16 h.k) (Nat.lt_succ_iff.1 (by rwa [hval])), hval]
  rw [quietCycle_exMem hc, fsmExMem, hcur, s.length_regsUpTo, decide_eq_decide.2 Nat.succ_inj, ← hreg]
  rfl

/-! ## EX_MEM: the load -/

theorem get_set_reg (v : Vector Byte 16) (x r : Reg) (b : Byte) : (v.set x b).get r = if r = x then b else v.get r := by
  simp only [Vector.get_eq_getElem, Vector.getElem_set, Fin.ext_iff, eq_comm]

theorem fsmExMem_of_load {x : Reg} (hi : u.current = .ok (.load x)) : fsmExMem u = fsmLoadByte x u := by
  simp only [fsmExMem, hi]

/-- The first cycle of a load reads and writes no register. -/
theorem fsmLoadByte_zero {x : Reg} (hk : u.hid.k = 0) :
    fsmLoadByte x u = { u with hid := { u.hid with ramByte := u.readByte u.idx.toNat, k := 1, ctl := .exMem } } := by
  simp [fsmLoadByte, State.nextByte, hk]

/-- A later cycle writes the byte read before. -/
theorem fsmLoadByte_succ {x : Reg} {k : Nat} (hk : u.hid.k = k + 1) :
    fsmLoadByte x u = { u.writeV (Fin.ofNat 16 k) u.hid.ramByte with hid := { u.hid with
      ramByte := if k + 1 ≤ x.val then u.readByte (u.idx.toNat + (k + 1)) else u.hid.ramByte
      k := k + 2
      ctl := if k = x.val then .commit else .exMem } } := by
  simp [fsmLoadByte, State.nextByte, hk]

/-- Before cycle `j` of a load the registers below `j - 1` are loaded, and the byte for the next one has been read. -/
def InLoad (s : State) (w : Word) (x : Reg) (j : Nat) (u : State) : Prop :=
  ∃ (v : Vector Byte 16) (h : Hidden), u = { s with v := v, hid := h } ∧ h.ctl = (if j = x.val + 2 then .commit else .exMem) ∧
    h.ir = w ∧ h.pcInsn = s.pc ∧ h.pcNext = s.pc + 2 ∧ h.k = j ∧
    (∀ r : Reg, v.get r = if r.val + 1 < j then s.readByte (s.idx.toNat + r.val) else s.v.get r) ∧
    (0 < j → h.ramByte = s.readByte (s.idx.toNat + min (j - 1) x.val))

theorem InLoad.step {x : Reg} {j : Nat} (hu : InLoad s w x j u) (hj : j < x.val + 2) : InLoad s w x (j + 1) (fsmLoadByte x u) := by
  have hx := x.isLt
  obtain ⟨v, h, rfl, -, hir, hins, hnext, hk, hv, hram⟩ := hu
  cases j with
  | zero =>
    rw [fsmLoadByte_zero hk]
    refine ⟨v, _, rfl, (if_neg (by omega)).symm, hir, hins, hnext, rfl, fun r => ?_, fun _ => rfl⟩
    rw [hv, if_neg (by omega), if_neg (by omega)]
  | succ k =>
    rw [fsmLoadByte_succ hk]
    have hread : h.ramByte = s.readByte (s.idx.toNat + k) := by
      rw [hram (by omega), Nat.add_sub_cancel, Nat.min_eq_left (by omega)]
    have hval : (Fin.ofNat 16 k).val = k := Nat.mod_eq_of_lt (by omega)
    have hnextRead : (if k + 1 ≤ x.val then s.readByte (s.idx.toNat + (k + 1)) else h.ramByte) =
        s.readByte (s.idx.toNat + min (k + 1) x.val) := by
      split
      case isTrue hle => rw [Nat.min_eq_left hle]
      case isFalse hgt => rw [hread, Nat.min_eq_right (by omega), show k = x.val by omega]
    refine ⟨v.set (Fin.ofNat 16 k) h.ramByte, _, rfl, if_congr (by omega) rfl rfl, hir, hins, hnext, rfl, fun r => ?_,
      fun _ => hnextRead⟩
    rw [get_set_reg, hv, hread]
    grind

/-- A load writes in each cycle the byte read in the one before. -/
theorem leads_load {x : Reg} (hu : AtExecute s w (.load x) u) (hi : decodeWord s.cfg.extOps w = .ok (.load x)) :
    Leads (Between s t) (x.val + 2) u (AtCommit (effect (.load x) (s.latch w))) := by
  have hloop : Leads (Between s t) ((x.val + 2) * 1) u (InLoad s w x (x.val + 2)) := by
    refine Leads.loop (I := InLoad s w x) (fun j hj u hu => ?_) ?_
    · have hcycle : quietCycle u = fsmLoadByte x u := by
        obtain ⟨v, h, rfl, hc, hir, -⟩ := hu
        have hcur : ({ s with v := v, hid := h } : State).current = .ok (.load x) := by rw [← hi, ← hir]; rfl
        rw [quietCycle_exMem (hc.trans (if_neg hj.ne)), fsmExMem_of_load hcur]
      refine .one ?_ (hcycle ▸ hu.step hj)
      obtain ⟨v, h, rfl, hc, -⟩ := hu
      exact between_old (by simp only [hc, if_neg hj.ne]; rfl) rfl
    · obtain ⟨⟨h, rfl, hc, hir, hins⟩, hnext, -, -, -, hk⟩ := hu
      exact ⟨s.v, h, rfl, hc.trans (if_neg (by omega)).symm, hir, hins, hnext, hk, fun r => (if_neg (by omega)).symm,
        fun h0 => absurd h0 (Nat.lt_irrefl 0)⟩
  rw [Nat.mul_one] at hloop
  refine hloop.imp ?_
  rintro _ ⟨v, h, rfl, hc, hir, hins, hnext, -, hv, -⟩
  have hregs : v = (effect (.load x) (s.latch w)).v := regs_ext fun r => by
    have hload := State.readV_loadRegs x r (s.latch w)
    rw [State.readByte_latch, State.readV_latch, State.latch_idx] at hload
    rw [hv, effect]
    exact (if_congr (by rw [Fin.le_def]; omega) rfl rfl).trans hload.symm
  exact ⟨s.pc, h, by simp only [hregs, effect, State.loadRegs, State.latch], hc.trans (if_pos rfl), hir, hins, hnext⟩

end

/-! ## EX_CLS -/

/-- The first `n` rows cleared. -/
def clearedRows (fb : Fb) : Nat → Fb
  | 0 => fb
  | n + 1 => fbSetRow (clearedRows fb n) n 0

theorem fbRow_clearedRows (fb : Fb) (n q : Nat) : fbRow (clearedRows fb n) q = if q < n then 0 else fbRow fb q := by
  induction n with
  | zero => rfl
  | succ n ih =>
    rw [clearedRows]
    by_cases hn : n < 32
    · rw [fbRow_fbSetRow _ hn, ih]
      grind
    · rw [fbSetRow_of_ge _ (by omega), ih]
      by_cases hq : q = n
      · rw [if_neg (by omega), if_pos (by omega), fbRow_of_ge _ (by omega)]
      · exact if_congr (by omega) rfl rfl

theorem fbAt_clearedRows (fb : Fb) (n : Nat) {px py : Nat} (hx : px < 64) :
    fbAt (clearedRows fb n) px py = (decide (n ≤ py) && fbAt fb px py) := by
  rw [fbAt_eq _ hx, fbAt_eq _ hx, fbRow_clearedRows]
  split
  case isTrue hlt => simp [Nat.not_le.2 hlt]
  case isFalse hge => simp [Nat.le_of_not_lt hge]

theorem fbAt_fbClear (px py : Nat) : fbAt fbClear px py = false := fbCell_fbClear _

theorem clearedRows_of_ge (fb : Fb) {n : Nat} (hn : 32 ≤ n) : clearedRows fb n = fbClear :=
  fb_ext fun px py hx hy => by
    rw [fbAt_clearedRows fb n hx, fbAt_fbClear, decide_eq_false (by omega), Bool.false_and]

theorem oldOrNew_clearedRows (fb : Fb) (n : Nat) : OldOrNew fb fbClear (clearedRows fb n) := by
  intro px py hx hy
  rw [fbAt_clearedRows fb n hx]
  by_cases hn : n ≤ py
  · exact .inl (by simp [hn])
  · exact .inr (by rw [fbAt_fbClear, decide_eq_false hn, Bool.false_and])

section
variable {s t u : State} {w : Word}

/-- Before cycle `j` of a clear the first `j` rows are cleared. -/
def InClear (s : State) (w : Word) (j : Nat) (u : State) : Prop :=
  ∃ h : Hidden, u = { s.setFb (clearedRows s.fb j) with hid := h } ∧ h.ctl = (if j = 32 then .commit else .exCls) ∧ h.ir = w ∧
    h.pcInsn = s.pc ∧ h.pcNext = s.pc + 2 ∧ h.row = j

theorem InClear.step {j : Nat} (hu : InClear s w j u) (hj : j < 32) : InClear s w (j + 1) (quietCycle u) := by
  obtain ⟨h, rfl, hc, hir, hins, hnext, rfl⟩ := hu
  rw [if_neg hj.ne] at hc
  have hcycle : quietCycle { s.setFb (clearedRows s.fb h.row) with hid := h } =
      fsmExCls { s.setFb (clearedRows s.fb h.row) with hid := h } := by simp only [quietCycle_eq, fsmNext, hc]
  exact ⟨{ h with row := h.row + 1, ctl := if h.row = 31 then .commit else .exCls }, hcycle, if_congr (by omega) rfl rfl, hir, hins,
    hnext, rfl⟩

theorem leads_cls (hu : AtExecute s w .cls u) (hfb : t.fb = fbClear) :
    Leads (Between s t) 32 u (AtCommit (effect .cls (s.latch w))) := by
  have hloop : Leads (Between s t) (32 * 1) u (InClear s w 32) := by
    refine Leads.loop (I := InClear s w) (fun j hj v hv => .one ?_ (hv.step hj)) ?_
    · obtain ⟨h, rfl, hc, -⟩ := hv
      exact ⟨by simp only [hc, if_neg hj.ne]; rfl, hfb ▸ oldOrNew_clearedRows s.fb j⟩
    · obtain ⟨⟨h, rfl, hc, hir, hins⟩, hnext, hrow, -, -, -⟩ := hu
      exact ⟨h, rfl, hc, hir, hins, hnext, hrow⟩
  refine hloop.imp ?_
  rintro _ ⟨h, rfl, hc, hir, hins, hnext, -⟩
  rw [clearedRows_of_ge s.fb (Nat.le_refl 32)]
  exact ⟨s.pc, h, rfl, hc, hir, hins, hnext⟩

end

/-! ## EX_DRW -/

theorem composeSprite_append (bs cs : List Byte) (x0 y0 : Nat) (k : Canvas) :
    composeSprite (bs ++ cs) x0 y0 k = composeSprite cs x0 (y0 + bs.length) (composeSprite bs x0 y0 k) := by
  induction bs generalizing y0 k with
  | nil => rfl
  | cons b bs ih => rw [List.cons_append, composeSprite, ih, composeSprite, List.length_cons, Nat.add_assoc, Nat.add_comm 1]

/-- The cells that the first `r` rows of a sprite cover lie above row `y0 + r`. -/
theorem spriteBit_take (rows : List Byte) (r x0 y0 px py : Nat) :
    spriteBit (rows.take r) x0 y0 px py = (decide (py < y0 + r) && spriteBit rows x0 y0 px py) := by
  unfold spriteBit
  rw [List.length_take]
  by_cases hr : py < y0 + r
  · have hin : (x0 ≤ px ∧ px < x0 + 8 ∧ y0 ≤ py ∧ py < y0 + min r rows.length) ↔
        (x0 ≤ px ∧ px < x0 + 8 ∧ y0 ≤ py ∧ py < y0 + rows.length) := by omega
    by_cases hy : y0 ≤ py
    · have hget : (rows.take r).getD (py - y0) 0 = rows.getD (py - y0) 0 := by
        rw [List.getD_eq_getElem?_getD, List.getD_eq_getElem?_getD, List.getElem?_take_of_lt (by omega)]
      simp only [hin, hr, decide_true, Bool.true_and, hget]
    · simp [hy]
  · have hout : ¬ (x0 ≤ px ∧ px < x0 + 8 ∧ y0 ≤ py ∧ py < y0 + min r rows.length) := by omega
    simp only [hout, hr, decide_false, Bool.false_and]

/-- While a sprite is drawn row by row each cell is that of before or that of after. -/
theorem oldOrNew_composeSprite_take (rows : List Byte) (r x0 y0 : Nat) (k : Canvas) :
    OldOrNew k.fb (composeSprite rows x0 y0 k).fb (composeSprite (rows.take r) x0 y0 k).fb := by
  intro px py hx hy
  rw [composeSprite_eq_plotSprite, composeSprite_eq_plotSprite, fbAt_plotSprite _ _ _ _ hx hy, fbAt_plotSprite _ _ _ _ hx hy,
    spriteBit_take]
  by_cases hr : py < y0 + r
  · exact .inr (by rw [decide_eq_true hr, Bool.true_and])
  · exact .inl (by rw [decide_eq_false hr, Bool.false_and, Bool.xor_false])

section
variable {s t u : State} {w : Word} {x y : Reg} {n : Fin 16}

/-- The canvas of `DRW Vx, Vy, n` after its first `r` rows. -/
def canvasAfter (s : State) (x y : Reg) (n r : Nat) : Canvas :=
  composeSprite ((s.spriteBytes n).take r) (s.startX x) (s.startY y) { fb := s.fb, coll := false }

theorem canvasAfter_succ (s : State) (x y : Reg) {n r : Nat} (hr : r < n) :
    canvasAfter s x y n (r + 1) =
      composeRow (s.readByte (s.idx.toNat + r)) (s.startX x) (s.startY y + r) (canvasAfter s x y n r) := by
  have hlen : r < (s.spriteBytes n).length := by rwa [length_spriteBytes]
  rw [canvasAfter, List.take_succ_eq_append_getElem hlen, composeSprite_append, List.length_take, Nat.min_eq_left hlen.le,
    ← List.getD_eq_getElem _ 0 hlen, getD_spriteBytes s hr]
  rfl

theorem effect_drw_eq (x y : Reg) (n : Fin 16) (s : State) :
    effect (.drw x y n) s = s.drawn (canvasAfter s x y n.val n.val) := by
  rw [canvasAfter, List.take_of_length_le (length_spriteBytes s n.val).le, composeSprite_eq_plotSprite]
  rfl

/-- The compositor's write is one row of the row form, where the framebuffer row it has read is the one it writes. -/
theorem fsmCompose_eq {x0 py : Nat} {k : Canvas} (hrow : u.hid.ramRow = fbRow u.fb py)
    (hk : composeRow u.hid.sprite x0 py { fb := u.fb, coll := u.hid.coll } = k) (n : Nat) :
    fsmCompose x0 py n u =
      let v : State := { u with fb := k.fb, hid := { u.hid with coll := k.coll, row := u.hid.row + 1, phase := 0 } }
      if u.hid.row + 1 = n then (v.writeV vf (collisionFlag k.coll)).goto .commit else v.goto .exDrw := by
  subst hk
  unfold fsmCompose composeRow
  by_cases hpy : py < 32
  · simp [hpy, hrow]
  · simp [hpy]

/-- The FSM is in EX_DRW, at row `r` of a draw: the rows above it are drawn, and of its registers `P` holds. -/
def InDraw (s : State) (w : Word) (x y : Reg) (n r : Nat) (P : Hidden → Prop) (u : State) : Prop :=
  ∃ h : Hidden, u = { s.setFb (canvasAfter s x y n r).fb with hid := h } ∧ h.ctl = .exDrw ∧ h.ir = w ∧ h.pcInsn = s.pc ∧
    h.pcNext = s.pc + 2 ∧ h.row = r ∧ h.coll = (canvasAfter s x y n r).coll ∧ P h

section
variable {r : Nat} {P : Hidden → Prop}

theorem InDraw.between (hu : InDraw s w x y n.val r P u) (hfb : t.fb = (effect (.drw x y n) (s.latch w)).fb) : Between s t u := by
  obtain ⟨h, rfl, hc, -⟩ := hu
  refine ⟨by simp only [hc]; rfl, ?_⟩
  have hcells := oldOrNew_composeSprite_take (s.spriteBytes n.val) r (s.startX x) (s.startY y) { fb := s.fb, coll := false }
  rw [composeSprite_eq_plotSprite (s.spriteBytes n.val)] at hcells
  exact hfb ▸ hcells

theorem InDraw.quietCycle (hu : InDraw s w x y n.val r P u) : quietCycle u = fsmExDrw u := by
  obtain ⟨h, rfl, hc, -⟩ := hu
  simp only [quietCycle_eq, fsmNext, hc]

theorem InDraw.current (hu : InDraw s w x y n.val r P u) (hi : decodeWord s.cfg.extOps w = .ok (.drw x y n)) :
    u.current = .ok (.drw x y n) := by
  obtain ⟨h, rfl, -, hir, -⟩ := hu
  rw [← hi, ← hir]
  rfl

end

section
variable (hi : u.current = .ok (.drw x y n))
include hi

theorem fsmExDrw_phase_zero (hp : u.hid.phase = 0) :
    fsmExDrw u = { u with hid := { u.hid with ramByte := u.readByte (u.idx.toNat + u.hid.row), phase := 1 } } := by
  simp only [fsmExDrw, hi, hp, if_true]

theorem fsmExDrw_phase_one (hp : u.hid.phase = 1) :
    fsmExDrw u = { u with hid := { u.hid with
      sprite := u.hid.ramByte, ramRow := fbRow u.fb (u.startY y + u.hid.row), phase := 2 } } := by
  simp only [fsmExDrw, hi, hp, Nat.one_ne_zero, if_false, if_true]

theorem fsmExDrw_phase_two (hp : u.hid.phase = 2) :
    fsmExDrw u = fsmCompose (u.startX x) (u.startY y + u.hid.row) n.val u := by
  simp [fsmExDrw, hi, hp]

end

/-- What the FSM has read before it composes row `r`. -/
def RowRead (s : State) (x y : Reg) (n r : Nat) (h : Hidden) : Prop :=
  h.phase = 2 ∧ h.sprite = s.readByte (s.idx.toNat + r) ∧ h.ramRow = fbRow (canvasAfter s x y n r).fb (s.startY y + r)

section
variable {r : Nat} (hi : decodeWord s.cfg.extOps w = .ok (.drw x y n))
  (hfb : t.fb = (effect (.drw x y n) (s.latch w)).fb)
include hi hfb

/-- Two cycles read the sprite byte and the framebuffer row. -/
theorem leads_readRow (hu : InDraw s w x y n.val r (·.phase = 0) u) :
    Leads (Between s t) 2 u (InDraw s w x y n.val r (RowRead s x y n.val r)) := by
  have hbyte : Leads (Between s t) 1 u
      (InDraw s w x y n.val r fun h => h.phase = 1 ∧ h.ramByte = s.readByte (s.idx.toNat + r)) := by
    refine .one (hu.between hfb) ?_
    have hcur := hu.current hi
    rw [hu.quietCycle]
    obtain ⟨h, rfl, hc, hir, hins, hnext, rfl, hcoll, hp⟩ := hu
    rw [fsmExDrw_phase_zero hcur hp]
    exact ⟨_, rfl, hc, hir, hins, hnext, rfl, hcoll, rfl, rfl⟩
  refine hbyte.bind (n := 1) fun v hv => .one (hv.between hfb) ?_
  have hcur := hv.current hi
  rw [hv.quietCycle]
  obtain ⟨h, rfl, hc, hir, hins, hnext, rfl, hcoll, hp, hram⟩ := hv
  rw [fsmExDrw_phase_one hcur hp]
  exact ⟨_, rfl, hc, hir, hins, hnext, rfl, hcoll, rfl, hram, rfl⟩

/-- The third cycle of a row but the last composes and writes it. -/
theorem leads_composeRow (hu : InDraw s w x y n.val r (RowRead s x y n.val r) u) (hr : r + 1 < n.val) :
    Leads (Between s t) 1 u (InDraw s w x y n.val (r + 1) (·.phase = 0)) := by
  refine .one (hu.between hfb) ?_
  have hcur := hu.current hi
  rw [hu.quietCycle]
  obtain ⟨h, rfl, hc, hir, hins, hnext, rfl, hcoll, hp, hsprite, hrow⟩ := hu
  have hk : composeRow h.sprite (s.startX x) (s.startY y + h.row) ⟨(canvasAfter s x y n.val h.row).fb, h.coll⟩ =
      canvasAfter s x y n.val (h.row + 1) := by rw [canvasAfter_succ s x y (by omega), hsprite, hcoll]
  rw [fsmExDrw_phase_two hcur hp, fsmCompose_eq hrow hk, if_neg hr.ne]
  exact ⟨_, rfl, rfl, hir, hins, hnext, rfl, rfl, rfl⟩

/-- The third cycle of the last row writes VF too. -/
theorem leads_lastRow (hu : InDraw s w x y n.val r (RowRead s x y n.val r) u) (hr : r + 1 = n.val) :
    Leads (Between s t) 1 u (AtCommit (effect (.drw x y n) (s.latch w))) := by
  refine .one (hu.between hfb) ?_
  have hcur := hu.current hi
  rw [hu.quietCycle]
  obtain ⟨h, rfl, hc, hir, hins, hnext, rfl, hcoll, hp, hsprite, hrow⟩ := hu
  have hk : composeRow h.sprite (s.startX x) (s.startY y + h.row) ⟨(canvasAfter s x y n.val h.row).fb, h.coll⟩ =
      canvasAfter s x y n.val (h.row + 1) := by rw [canvasAfter_succ s x y (by omega), hsprite, hcoll]
  rw [hr] at hk
  rw [fsmExDrw_phase_two hcur hp, fsmCompose_eq hrow hk, if_pos hr, effect_drw_eq]
  exact ⟨s.pc, _, rfl, rfl, hir, hins, hnext⟩

/-- A draw of at least one row writes its rows from the first down. -/
theorem leads_drw (hu : AtExecute s w (.drw x y n) u) (hn : n.val ≠ 0) :
    Leads (Between s t) (3 * n.val) u (AtCommit (effect (.drw x y n) (s.latch w))) := by
  obtain ⟨m, hm⟩ := Nat.exists_eq_succ_of_ne_zero hn
  have hstart : InDraw s w x y n.val 0 (·.phase = 0) u := by
    obtain ⟨⟨h, rfl, hc, hir, hins⟩, hnext, hrow, hcoll, hp, -⟩ := hu
    exact ⟨h, rfl, hc.trans (if_neg hn), hir, hins, hnext, hrow, hcoll, hp⟩
  have hrows : Leads (Between s t) (m * 3) u (InDraw s w x y n.val m (·.phase = 0)) :=
    Leads.loop (I := fun r => InDraw s w x y n.val r (·.phase = 0)) (fun r hr v hv =>
      (leads_readRow hi hfb hv).bind (n := 1) fun v hv => leads_composeRow hi hfb hv (by omega)) hstart
  have hlast := hrows.bind fun v hv => (leads_readRow hi hfb hv).bind fun v hv => leads_lastRow hi hfb hv (by omega)
  rwa [show m * 3 + (2 + 1) = 3 * n.val by omega] at hlast

end

/-- A draw of no rows has no execute state: COMMIT writes its VF (log entry 10). -/
theorem leads_drw_zero (hu : AtExecute s w (.drw x y n) u) (hi : decodeWord s.cfg.extOps w = .ok (.drw x y n)) (hn : n.val = 0) :
    Leads (Between s t) 1 u (DoneWith (effect (.drw x y n) (s.latch w)).commitOk) := by
  refine .one hu.between ?_
  obtain ⟨hl, hnext, -⟩ := hu
  have hcur := hl.current.trans hi
  obtain ⟨h, rfl, hc, hir, hins⟩ := hl
  have hcycle : quietCycle { s with hid := h } =
      (State.commitOk { State.writeV vf (collisionFlag false) { s with hid := h } with pc := h.pcNext }).goto .done := by
    have hcommit : h.ctl = .commit := hc.trans (if_pos hn)
    simp only [quietCycle_eq, fsmNext, hcommit, fsmCommit, hcur, hn, if_true]
  rw [hcycle, effect_drw_eq, hn]
  refine ⟨rfl, ?_⟩
  have hpc : h.pcNext = s.pc + 2 := hnext
  simp only [State.arch, State.commitOk, State.goto, State.writeV, State.drawn, State.setFb, canvasAfter, List.take_zero,
    composeSprite, State.latch, hir, hins, hpc]

end

end Sys2Proof.Machine
end

section
/-! SUPPORT. The statements about the control FSM and the atomic step (spec/40_step_cycle.md section 1 and R120): the FSM reaches the
atomic step's state in the cycles of R345, shows each framebuffer cell as before or after it, and serializes a tick. -/

namespace Sys2Proof.Machine

/-! ## The whole step -/

section
variable {s t u : State} {w : Word} {i : Instr}

/-- The execute states of an instruction and COMMIT, in the cycles of R345. -/
theorem leads_instr (hu : AtExecute s w i u) (hi : decodeWord s.cfg.extOps w = .ok i) (hg : guardOf i (s.latch w) = none) :
    Leads (Between s (effect i (s.latch w)).commitOk) (instrCycles i - 5) u (DoneWith (effect i (s.latch w)).commitOk) := by
  have hcommit {n : Nat} (hn : instrCycles i = n + 6) (hne : ∀ x y n, i = .drw x y n → n.val ≠ 0)
      (hex : Leads (Between s (effect i (s.latch w)).commitOk) n u (AtCommit (effect i (s.latch w)))) :
      Leads (Between s (effect i (s.latch w)).commitOk) (instrCycles i - 5) u (DoneWith (effect i (s.latch w)).commitOk) := by
    have hdone := hex.bind fun v hv => leads_commit (s := s) hv (by rwa [effect_cfg, effect_hid]) hne
    rwa [hn]
  cases i
  case cls => exact hcommit rfl nofun (leads_cls hu rfl)
  case ldB x => exact hcommit rfl nofun (leads_ldB hu hi)
  case dump x => exact hcommit (Nat.add_comm 7 x.val) nofun (leads_dump hu hi)
  case load x => exact hcommit (Nat.add_comm 8 x.val) nofun (leads_load hu hi)
  case drw x y n =>
    by_cases hn : n.val = 0
    · simpa only [instrCycles, hn] using leads_drw_zero hu hi hn
    · exact hcommit (Nat.add_comm 6 (3 * n.val)) (by rintro _ _ _ ⟨⟩; exact hn) (leads_drw hi rfl hu hn)
  all_goals exact hcommit rfl nofun (leads_ex1 hu hi hg rfl)

/-- The FSM's step: in one cycle less than those of R345, the request's own, it comes to `done` with the atomic step's state. -/
theorem leads_step (hb : s.busy = false) (h : step s = .next t) :
    Leads (Between s t) (s.stepCycles - 1) (requestStep s) (DoneWith t) := by
  rcases step_cases h with ⟨hb', -⟩ | ⟨-, hw, rfl⟩ | ⟨-, w, r, hw, hr, rfl⟩ | ⟨-, w, i, hw, hi, rfl⟩
  · simp [hb] at hb'
  · simpa only [State.stepCycles, hw] using leads_fetchFault hb hw
  · simpa only [State.stepCycles, hw, hr] using (leads_fetch hb hw).bind fun v hv => leads_unrecognized hv hr
  · have hguard : guardOf i s = guardOf i (s.latch w) := guardOf_congr i rfl rfl
    rcases outcome_cases i (s.latch w) with ⟨c, ea, hg, hout⟩ | ⟨hg, hout⟩ <;> rw [hout]
    · simpa [State.stepCycles, hw, hi, hguard, hg] using (leads_fetch hb hw).bind fun v hv => leads_raise hv hi hg
    · have hcycles : s.stepCycles - 1 = 3 + (1 + (instrCycles i - 5)) := by
        have : 6 ≤ instrCycles i := by cases i <;> simp only [instrCycles] <;> omega
        simp only [State.stepCycles, hw, hi, hguard, hg]
        simp only [Option.isSome_none, Bool.false_eq_true, if_false]
        omega
      rw [hcycles]
      exact (leads_fetch hb hw).bind fun v hv => (leads_execute hv hi hg).bind fun u hu => leads_instr hu hi hg

/-! ## Cycle by cycle -/

/-- A step passes none of the control states that are not a step's. -/
theorem Between.ctl_ne (hu : Between s t u) {c : Ctl} (hc : c.inStep = false) : u.hid.ctl ≠ c := by
  rintro rfl
  obtain ⟨hin, -⟩ := hu
  rw [hin] at hc
  exact absurd hc nofun

/-- Settles O56: every cycle of the step is one of its control states, and the last comes to `done`. -/
theorem fsmComputesTheAtomicStep : Obligations.FsmComputesTheAtomicStep := by
  intro s t hb h
  obtain ⟨hrun, hdone, harch⟩ := leads_step hb h
  simp only [runCycles_quiet]
  refine ⟨hdone, harch, fun m hm => ?_⟩
  have hm := hrun m (by omega)
  exact ⟨bne_iff_ne.2 (hm.ctl_ne rfl), hm.ctl_ne rfl⟩

theorem fbPort_of_not_loading (hl : u.loading = false) (c : Fin 2048) : u.fbPort c = fbCell u.fb c.val := by
  simp only [State.fbPort, hl, Bool.false_eq_true, if_false]

theorem Between.fbPort (hu : Between s t u) (c : Fin 2048) : u.fbPort c = s.fbRead c ∨ u.fbPort c = t.fbRead c := by
  have hl : u.loading = false := by
    simp [State.loading, hu.ctl_ne (c := .ldCheck) rfl, hu.ctl_ne (c := .ldClear) rfl, hu.ctl_ne (c := .ldCopy) rfl]
  obtain ⟨-, hfb⟩ := hu
  simp only [fbPort_of_not_loading hl, State.fbRead, fbCell_eq_fbAt]
  exact hfb _ _ (Nat.mod_lt _ (by decide)) (by omega)

theorem loading_of_done (hd : u.hid.ctl = .done) : u.loading = false := by simp [State.loading, hd]

theorem DoneWith.fbPort (hu : DoneWith t u) (c : Fin 2048) : u.fbPort c = t.fbRead c := by
  obtain ⟨hc, harch⟩ := hu
  have hfb : u.fb = t.fb := (congrArg State.fb harch : u.arch.fb = t.arch.fb)
  rw [fbPort_of_not_loading (loading_of_done hc), hfb, State.fbRead]

theorem fbReadDuring_cases (s t : State) (c : Fin 2048) (n : Nat) :
    fbReadDuring s t c n = s.fbRead c ∨ fbReadDuring s t c n = t.fbRead c := by
  unfold fbReadDuring
  split
  · exact .inr rfl
  · exact .inl rfl

/-- Settles O57: a cell is old or new before the `done` cycle, and new in it. -/
theorem framebufferReadsOldOrNewWhileBusy : Obligations.FramebufferReadsOldOrNewWhileBusy := by
  refine ⟨fun s t m c hb h hm => ?_, fun s t c n => ⟨fbReadDuring_cases s t c n, fun heq => ?_⟩⟩
  · obtain ⟨hrun, hdone⟩ := leads_step hb h
    rw [runCycles_quiet]
    by_cases hlast : m < s.stepCycles - 1
    · exact (hrun m hlast).fbPort c
    · obtain rfl : m = s.stepCycles - 1 := by omega
      exact .inr (hdone.fbPort c)
  · have hcases := fbReadDuring_cases s t c n
    rwa [← heq, or_self] at hcases

end

/-! ## A tick during the step (R106) -/

section
variable {s t u : State}

theorem fsmLoadByte_tick (x : Reg) (u : State) : fsmLoadByte x u.tick = (fsmLoadByte x u).tick := by
  cases hk : u.hid.k with
  | zero => rw [fsmLoadByte_zero hk, fsmLoadByte_zero (u := u.tick) hk]; rfl
  | succ k => rw [fsmLoadByte_succ hk, fsmLoadByte_succ (u := u.tick) hk]; rfl

theorem fsmCompose_tick (x0 py n : Nat) (u : State) : fsmCompose x0 py n u.tick = (fsmCompose x0 py n u).tick := by
  unfold fsmCompose
  rw [apply_ite State.tick]
  rfl

theorem fsmExDrw_tick (u : State) : fsmExDrw u.tick = (fsmExDrw u).tick := by
  have hcur : u.tick.current = u.current := rfl
  simp only [fsmExDrw, hcur, State.tick_hid]
  split
  case h_1 x y n hi =>
    rw [apply_ite State.tick, apply_ite State.tick, ← fsmCompose_tick]
    rfl
  case h_2 => rfl

/-- Outside EX_1 the FSM neither reads nor writes a timer. -/
theorem quietCycle_tick (hc : u.hid.ctl.inStep = true) (hex : u.hid.ctl ≠ .ex1) : quietCycle u.tick = (quietCycle u).tick := by
  have hcur : u.tick.current = u.current := rfl
  have hnext : fsmNext Pins.quiet u.tick = (fsmNext Pins.quiet u).tick := by
    simp only [fsmNext, State.tick_hid]
    cases hctl : u.hid.ctl
    case idle | done | ldCheck | ldClear | ldCopy => rw [hctl] at hc; exact absurd hc nofun
    case ex1 => exact absurd hctl hex
    case fCheck =>
      rw [fsmFCheck, fsmFCheck, apply_ite State.tick]
      rfl
    case decode =>
      have hguard (i : Instr) : guardOf i u.tick = guardOf i u := guardOf_congr i rfl rfl
      simp only [fsmDecode, hcur, hguard]
      split
      · rfl
      · split <;> rfl
    case exMem =>
      simp only [fsmExMem, hcur]
      split
      case h_3 x hi => exact fsmLoadByte_tick x u
      all_goals rfl
    case exDrw => exact fsmExDrw_tick u
    case commit =>
      simp only [fsmCommit, hcur]
      split
      case h_1 x y n hi => split <;> rfl
      case h_2 => rfl
    case fHi | fLo | exCls | unrec | err => rfl
  exact hnext

theorem cycle_tick_of_ne_ex1 (hex : u.hid.ctl ≠ .ex1) (hc : u.hid.ctl.inStep = true) :
    cycle { tick := true } u = (quietCycle u).tick := by
  have hbusy : u.busy = true := bne_iff_ne.2 fun hidle => by simp [hidle, Ctl.inStep] at hc
  have hnext : fsmNext { tick := true } u = quietCycle u := fsmNext_congr_of_busy (q := Pins.quiet) hbusy rfl rfl
  have hdt : u.writesDT = false := by simp [State.writesDT, hex]
  have hst : u.writesST = false := by simp [State.writesST, hex]
  simp only [cycle, hnext, hdt, hst]
  rfl

/-- In EX_1 the tick comes before the timer loads, whose timer it does not change, and after every other instruction. -/
theorem cycle_tick_of_ex1 (hex : u.hid.ctl = .ex1) :
    cycle { tick := true } u = quietCycle u.tick ∨ cycle { tick := true } u = (quietCycle u).tick := by
  have hnext (p : Pins) : fsmNext p u = fsmEx1 u := fsmNext_of_ex1 hex p
  have hnext' : quietCycle u.tick = fsmEx1 u.tick := fsmNext_of_ex1 (s := u.tick) hex _
  cases hcur : u.current with
  | error r =>
    right
    simp only [cycle, hnext, quietCycle, State.writesDT, State.writesST, hcur, Bool.and_false]
    rfl
  | ok i =>
    have hcur' : u.tick.current = .ok i := hcur
    cases i
    case ldDT x | ldST x =>
      left
      rw [hnext', fsmEx1_of_current hcur']
      simp only [cycle, hnext, State.writesDT, State.writesST, hex, hcur, fsmEx1_of_current hcur]
      rfl
    all_goals
      right
      simp only [cycle, hnext, quietCycle, State.writesDT, State.writesST, hcur, Bool.and_false]
      rfl

/-- A tick commutes with quiet cycles that pass no EX_1. -/
theorem iterate_quietCycle_tick {n : Nat} (hc : ∀ j < n, (quietCycle^[j] u).hid.ctl.inStep = true)
    (hex : ∀ j < n, (quietCycle^[j] u).hid.ctl ≠ .ex1) : quietCycle^[n] u.tick = (quietCycle^[n] u).tick := by
  induction n with
  | zero => rfl
  | succ n ih =>
    rw [Function.iterate_succ_apply', Function.iterate_succ_apply', ih (fun j hj => hc j (by omega)) (fun j hj => hex j (by omega)),
      quietCycle_tick (hc n (by omega)) (hex n (by omega))]

theorem quietCycle_of_commit (hc : u.hid.ctl = .commit) : (quietCycle u).hid.ctl = .done := by
  simp only [quietCycle_eq, fsmNext, hc]
  rfl

/-- EX_1 leads to COMMIT. (Without an instruction in IR it would stay.) -/
theorem quietCycle_of_ex1 (hex : u.hid.ctl = .ex1) : quietCycle u = u ∨ (quietCycle u).hid.ctl = .commit := by
  rw [quietCycle_eq, fsmNext_of_ex1 hex]
  cases hcur : u.current with
  | error r => exact .inl (by simp only [fsmEx1, hcur])
  | ok i => exact .inr (by rw [fsmEx1_of_current hcur])

section
variable {n : Nat} (hc : ∀ j < n, (quietCycle^[j] u).hid.ctl.inStep = true) (hdone : (quietCycle^[n] u).hid.ctl = .done)
include hc hdone

/-- EX_1 comes two cycles before `done`, so at most once. -/
theorem done_after_ex1 {j : Nat} (hj : j < n) (hex : (quietCycle^[j] u).hid.ctl = .ex1) : n = j + 2 := by
  rcases quietCycle_of_ex1 hex with hstay | hcommit
  · obtain ⟨d, rfl⟩ := Nat.exists_eq_add_of_lt hj
    rw [Nat.add_assoc, Nat.add_comm, Function.iterate_add_apply, Function.iterate_fixed hstay, hex] at hdone
    exact absurd hdone nofun
  · rw [← Function.iterate_succ_apply' quietCycle] at hcommit
    have hnext := quietCycle_of_commit hcommit
    rw [← Function.iterate_succ_apply' quietCycle] at hnext
    have hne : n ≠ j + 1 := by
      rintro rfl
      exact absurd (hdone.symm.trans hcommit) nofun
    have hle : ¬ j + 2 < n := fun hlt => absurd (hnext ▸ hc _ hlt) nofun
    omega

/-- A tick in cycle `m` of a run to `done` acts as one before the run or as one after it. -/
theorem tick_serialized {m k : Nat} (hn : n = k + (m + 1)) :
    quietCycle^[k] (cycle { tick := true } (quietCycle^[m] u)) = quietCycle^[n] u.tick ∨
    quietCycle^[k] (cycle { tick := true } (quietCycle^[m] u)) = (quietCycle^[n] u).tick := by
  have hlast {j : Nat} (hj : j < n) (hex : (quietCycle^[j] u).hid.ctl = .ex1) : n = j + 2 := done_after_ex1 hc hdone hj hex
  have hsplit (v : State) : quietCycle^[n] v = quietCycle^[k] (quietCycle (quietCycle^[m] v)) := by
    rw [hn, Function.iterate_add_apply, Function.iterate_succ_apply']
  have hbefore (hex : ∀ j < m, (quietCycle^[j] u).hid.ctl ≠ .ex1)
      (hcycle : cycle { tick := true } (quietCycle^[m] u) = quietCycle (quietCycle^[m] u).tick) :
      quietCycle^[k] (cycle { tick := true } (quietCycle^[m] u)) = quietCycle^[n] u.tick := by
    rw [hcycle, hsplit, iterate_quietCycle_tick (fun j hj => hc j (by omega)) hex]
  have hafter (hex : ∀ j < k, (quietCycle^[j + (m + 1)] u).hid.ctl ≠ .ex1)
      (hcycle : cycle { tick := true } (quietCycle^[m] u) = (quietCycle (quietCycle^[m] u)).tick) :
      quietCycle^[k] (cycle { tick := true } (quietCycle^[m] u)) = (quietCycle^[n] u).tick := by
    have hshift (j : Nat) : quietCycle^[j] (quietCycle (quietCycle^[m] u)) = quietCycle^[j + (m + 1)] u := by
      rw [Function.iterate_add_apply, Function.iterate_succ_apply']
    rw [hcycle, hsplit, iterate_quietCycle_tick]
    · exact fun j hj => hshift j ▸ hc _ (by omega)
    · exact fun j hj => hshift j ▸ hex j hj
  by_cases hex : (quietCycle^[m] u).hid.ctl = .ex1
  · have hm := hlast (by omega) hex
    refine (cycle_tick_of_ex1 hex).imp (hbefore fun j hj hj' => ?_) (hafter fun j hj hj' => ?_)
    · have := hlast (by omega) hj'
      omega
    · have := hlast (by omega) hj'
      omega
  · have hcycle := cycle_tick_of_ne_ex1 hex (hc m (by omega))
    by_cases hpast : ∃ j < m, (quietCycle^[j] u).hid.ctl = .ex1
    · obtain ⟨j, hj, hj'⟩ := hpast
      have := hlast (by omega) hj'
      exact .inr (hafter (fun i hi => by omega) hcycle)
    · refine .inl (hbefore (fun j hj hj' => hpast ⟨j, hj, hj'⟩) ?_)
      rw [hcycle, quietCycle_tick (hc m (by omega)) hex]

end

theorem requestStep_tick (hb : s.busy = false) : requestStep s.tick = (requestStep s).tick := by
  rw [requestStep_eq hb, requestStep_eq (s := s.tick) hb]
  rfl

theorem stepCycles_tick (s : State) : s.tick.stepCycles = s.stepCycles := by
  have hguard (i : Instr) : guardOf i s.tick = guardOf i s := guardOf_congr i rfl rfl
  simp only [State.stepCycles, hguard]
  rfl

/-- Settles O58: a tick commutes with every cycle but EX_1, which comes once, and there it is dropped where it would be seen. -/
theorem tickDuringAStepIsSerialized : Obligations.TickDuringAStepIsSerialized := by
  intro s m hb hm
  obtain ⟨t, h⟩ := step_total s
  obtain ⟨t', h'⟩ := step_total s.tick
  obtain ⟨hrun, hdone, harch⟩ := leads_step hb h
  obtain ⟨-, -, harch'⟩ := leads_step (s := s.tick) hb h'
  rw [stepCycles_tick, requestStep_tick hb] at harch'
  rw [runCycles_append, runCycles_append, runCycles_quiet, runCycles_quiet]
  rcases tick_serialized (fun j hj => (hrun j hj).1) hdone (m := m) (k := s.stepCycles - 2 - m) (by omega) with heq | heq
  · exact ⟨t', .inl h', (congrArg State.arch heq).trans harch'⟩
  · exact ⟨t.tick, .inr ⟨t, h, rfl⟩, (congrArg State.arch heq).trans (congrArg State.tick harch)⟩

end

end Sys2Proof.Machine
end

section
/-! SUPPORT. The FSM's load (spec/70_reset_and_hazards.md R333): it computes the atomic load in the cycles of R345, and its framebuffer
port shows the committed framebuffer until it is done. -/

namespace Sys2Proof.Machine

section
variable {s u : State}

theorem requestLoad_eq (hb : s.busy = false) (len : BitVec 32) :
    requestLoad len s = { s with hid := { s.hid with loadLen := len, fbHeld := s.fb, ctl := .ldCheck } } := by
  have hnext : fsmNext { loadReq := true, loadLen := len } s = fsmIdle { loadReq := true, loadLen := len } s := by
    simp only [fsmNext, ctl_of_not_busy hb]
  exact hnext

/-! ## LD_CLEAR -/

/-- Clearing the cell at `k` leaves listed only what lies above it. -/
theorem Memory.wfFrom_succ_write_unlisted {font : Font} {k : Nat} {m : Memory} (hm : Memory.wfFrom font k m = true) :
    Memory.wfFrom font (k + 1) (Memory.write font m k (unlistedByte font k)) = true := by
  have hcell : Memory.cell font k (unlistedByte font k) = [] := if_pos rfl
  cases m with
  | nil => rw [Memory.write, hcell, Memory.wfFrom]
  | cons e m =>
    obtain ⟨j, b⟩ := e
    simp only [Memory.wfFrom, Bool.and_eq_true, decide_eq_true_eq] at hm
    obtain ⟨⟨⟨hkj, hj⟩, hb⟩, hm⟩ := hm
    rw [Memory.write, hcell]
    rcases Nat.lt_or_eq_of_le hkj with hlt | rfl
    · simp [hlt, Memory.wfFrom, hj, hb, hm]
    · simpa using hm

/-- No cell lies at or above the end of memory. -/
theorem Memory.eq_nil_of_wfFrom_memSize {font : Font} {m : Memory} (hm : Memory.wfFrom font Config.memSize m = true) : m = [] := by
  cases m with
  | nil => rfl
  | cons e m =>
    simp only [Memory.wfFrom, Bool.and_eq_true, decide_eq_true_eq] at hm
    omega

/-- Before cycle `k` of the clear of a load of `len` bytes: `k` rows and cells are cleared. What the rest of the state holds does not
matter, for the next cycle writes its reset values. -/
def Clearing (s : State) (len : BitVec 32) (k : Nat) (u : State) : Prop :=
  u.hid.ctl = .ldClear ∧ u.hid.k = k ∧ u.hid.loadLen = len ∧ u.cfg = s.cfg ∧ u.env = s.env ∧ u.status = s.status ∧
    u.fb = clearedRows s.fb k ∧ (s.MemOk → Memory.wfFrom s.cfg.font k u.mem = true)

/-- A load of `n` bytes has stored the bytes `bs` in the cleared state; with the last of them it is done. -/
def Copied (s : State) (n : Nat) (bs : List Byte) (u : State) : Prop :=
  ∃ (m : Memory) (h : Hidden), (s.MemOk → m = []) ∧
    u = { s.hostReset with
      mem := Memory.writeBytes s.cfg.font m 0x200 bs
      status := if bs.length = n then Status.clear else s.status
      hid := h } ∧
    h.ctl = (if bs.length = n then .done else .ldCopy) ∧ h.loadLen.toNat = n ∧ (bs.length ≠ n → h.k = bs.length)

theorem Clearing.quietCycle_eq {len : BitVec 32} {k : Nat} (hu : Clearing s len k u) : quietCycle u = fsmLdClear u := by
  obtain ⟨hc, -⟩ := hu
  simp only [Machine.quietCycle_eq, fsmNext, hc]

theorem Clearing.step {len : BitVec 32} {k : Nat} (hu : Clearing s len k u) (hk : k + 1 < Config.memSize) :
    Clearing s len (k + 1) (quietCycle u) := by
  rw [hu.quietCycle_eq]
  obtain ⟨hc, rfl, hlen, hcfg, henv, hstatus, hfb, hmem⟩ := hu
  simp only [fsmLdClear, if_neg hk.ne]
  refine ⟨hc, rfl, hlen, hcfg, henv, hstatus, congrArg (fbSetRow · _ _) hfb, fun hok => ?_⟩
  rw [hcfg]
  exact Memory.wfFrom_succ_write_unlisted (hmem hok)

/-- The last cycle of the clear leaves the reset state, but for STATUS. -/
theorem Clearing.last {len : BitVec 32} {k : Nat} (hu : Clearing s len k u) (hk : k + 1 = Config.memSize) :
    Copied s len.toNat [] (quietCycle u) := by
  rw [hu.quietCycle_eq]
  obtain ⟨hc, rfl, rfl, hcfg, henv, hstatus, hfb, hmem⟩ := hu
  have hreset : fbSetRow u.fb u.hid.k 0 = s.hostReset.fb := by
    rw [hfb]
    exact clearedRows_of_ge s.fb (n := u.hid.k + 1) (by rw [hk, memSize_eq]; omega)
  have hnil (hok : s.MemOk) : Memory.write s.cfg.font u.mem u.hid.k (unlistedByte s.cfg.font u.hid.k) = [] :=
    Memory.eq_nil_of_wfFrom_memSize (hk ▸ Memory.wfFrom_succ_write_unlisted (hmem hok))
  have hzero : ([] : List Byte).length = u.hid.loadLen.toNat ↔ u.hid.loadLen = 0 := by
    rw [List.length_nil, BitVec.toNat_eq, eq_comm]
    rfl
  simp only [fsmLdClear, if_pos hk, hcfg, henv, hstatus, hreset, Copied, hzero]
  by_cases hlen : u.hid.loadLen = 0
  · simp only [if_pos hlen]
    exact ⟨_, { u.hid with ctl := .done }, hnil, rfl, rfl, rfl, fun hne => absurd (hzero.2 hlen) hne⟩
  · simp only [if_neg hlen]
    exact ⟨_, { u.hid with k := 0, ctl := .ldCopy }, hnil, rfl, rfl, rfl, fun _ => rfl⟩

/-- LD_CHECK accepts a length of at most 3584, and LD_CLEAR takes 4096 cycles. -/
theorem leads_clear {len : BitVec 32} (hb : s.busy = false) (hlen : len.toNat ≤ 3584) :
    Leads (fun _ => True) 4097 (requestLoad len s) (Copied s len.toNat []) := by
  have hcheck : Clearing s len 0 (quietCycle (requestLoad len s)) := by
    have hpass : quietCycle (requestLoad len s) = fsmLdCheck (requestLoad len s) := by rw [requestLoad_eq hb]; rfl
    rw [hpass, requestLoad_eq hb, fsmLdCheck, if_neg (Nat.not_lt.2 hlen)]
    exact ⟨rfl, rfl, rfl, rfl, rfl, rfl, rfl, id⟩
  have hclear : Leads (fun _ => True) (4095 * 1) (quietCycle (requestLoad len s)) (Clearing s len 4095) :=
    Leads.loop (I := Clearing s len) (fun k hk v hv => .one trivial (hv.step (by rw [memSize_eq]; omega))) hcheck
  exact .step trivial rfl (hclear.bind (n := 1) fun v hv => .one trivial (hv.last rfl))

/-! ## LD_COPY -/

theorem Copied.byte {n : Nat} {bs : List Byte} (hu : Copied s n bs u) (hn : bs.length < n) (b : Byte) :
    Copied s n (bs ++ [b]) (cycle (Pins.byte b) u) := by
  obtain ⟨m, h, hnil, rfl, hc, rfl, hk⟩ := hu
  rw [if_neg hn.ne] at hc
  obtain hk := hk hn.ne
  have hcycle (v : State) (hv : v.hid = h) : cycle (Pins.byte b) v = fsmLdCopy (Pins.byte b) v := by
    simp only [cycle, fsmNext, hv, hc]
    rfl
  rw [hcycle _ rfl]
  simp only [fsmLdCopy, Pins.byte, if_true, hk, if_neg hn.ne, Copied, Memory.writeBytes_append, List.length_append,
    List.length_singleton, progBase_eq]
  split
  case isTrue hlast =>
    exact ⟨m, { h with ctl := .done }, hnil, rfl, rfl, rfl, fun hne => absurd hlast hne⟩
  case isFalse hmore => exact ⟨m, { h with k := bs.length + 1 }, hnil, rfl, hc, rfl, fun _ => rfl⟩

theorem Copied.run {n : Nat} {bs cs : List Byte} (hu : Copied s n bs u) (hn : bs.length + cs.length = n) :
    Copied s n (bs ++ cs) (runCycles (cs.map Pins.byte) u) := by
  induction cs generalizing bs u with
  | nil => rwa [List.append_nil]
  | cons c cs ih =>
    rw [List.length_cons] at hn
    rw [List.map_cons, runCycles_cons, List.append_cons]
    exact ih (hu.byte (by omega) c) (by rw [List.length_append, List.length_singleton]; omega)

theorem Copied.done {bs : List Byte} (hu : Copied s bs.length bs u) : u.hid.ctl = .done ∧ u.fb = fbClear := by
  obtain ⟨m, h, -, rfl, hc, -⟩ := hu
  exact ⟨hc.trans (if_pos rfl), rfl⟩

theorem Copied.arch {bs : List Byte} (hu : Copied s bs.length bs u) (hok : s.MemOk) :
    u.arch = (s.hostReset.writeBytes 0x200 bs).arch := by
  obtain ⟨m, h, hnil, rfl, -⟩ := hu
  rw [hnil hok, if_pos rfl]
  rfl

/-- A load of at most 3584 bytes that come one per cycle. -/
theorem copied_load {bytes : List Byte} (hb : s.busy = false) (hlen : bytes.length ≤ 3584) :
    Copied s bytes.length bytes
      (runCycles (List.replicate 4097 Pins.quiet ++ bytes.map Pins.byte) (requestLoad (BitVec.ofNat 32 bytes.length) s)) := by
  have htoNat : (BitVec.ofNat 32 bytes.length).toNat = bytes.length := by
    rw [BitVec.toNat_ofNat, Nat.mod_eq_of_lt (by omega)]
  obtain ⟨-, hclear⟩ := leads_clear (len := BitVec.ofNat 32 bytes.length) hb (htoNat.trans_le hlen)
  rw [htoNat, ← runCycles_quiet] at hclear
  rw [runCycles_append]
  exact hclear.run (Nat.zero_add _)

/-- Settles O59: the clear and the copy of an accepted load by their invariants, a larger one by its two cycles. -/
theorem fsmComputesTheLoad : Obligations.FsmComputesTheLoad := by
  refine ⟨fun s bytes hok hb hlen => ?_, fun s len bytes hb hlarge hlen => ?_⟩
  · have hcopied := copied_load hb hlen
    refine ⟨?_, hcopied.done.1, ?_⟩
    · rw [List.length_append, List.length_replicate, List.length_map, loadCycles]
    · rw [hcopied.arch hok, State.load_of_fits hb hlen]
  · rw [runCycles_quiet, requestLoad_eq hb, State.load_of_tooLarge hb (hlen ▸ hlarge)]
    have hcheck : quietCycle { s with hid := { s.hid with loadLen := len, fbHeld := s.fb, ctl := .ldCheck } } =
        State.fail { code := .romTooLarge, word := 0, pc := 0, ea := 0 }
          { s with hid := { s.hid with loadLen := len, fbHeld := s.fb, ctl := .ldCheck } } := if_pos hlarge
    rw [Function.iterate_succ_apply, Function.iterate_one, hcheck]
    exact ⟨rfl, rfl⟩

/-! ## The framebuffer port (R103) -/

/-- A load under way keeps the framebuffer of `s` for the port. -/
def HoldsFb (s u : State) : Prop :=
  (u.hid.ctl = .ldCheck ∧ u.hid.fbHeld = s.fb ∧ u.fb = s.fb) ∨ (u.hid.ctl = .ldClear ∧ u.hid.fbHeld = s.fb) ∨
    (u.hid.ctl = .ldCopy ∧ u.hid.fbHeld = s.fb) ∨ (u.hid.ctl = .err ∧ u.fb = s.fb)

theorem HoldsFb.busy (hu : HoldsFb s u) : u.busy = true := by
  rcases hu with ⟨hc, -⟩ | ⟨hc, -⟩ | ⟨hc, -⟩ | ⟨hc, -⟩ <;> rw [State.busy, hc] <;> rfl

theorem HoldsFb.fbPort (hu : HoldsFb s u) (c : Fin 2048) : u.fbPort c = fbReadDuringLoad s c := by
  unfold State.fbPort State.loading fbReadDuringLoad State.fbRead
  rcases hu with ⟨hc, hfb, -⟩ | ⟨hc, hfb⟩ | ⟨hc, hfb⟩ | ⟨hc, hfb⟩ <;> rw [hc, hfb] <;> rfl

theorem HoldsFb.requestLoad (hb : s.busy = false) (len : BitVec 32) : HoldsFb s (requestLoad len s) := by
  rw [requestLoad_eq hb]
  exact .inl ⟨rfl, rfl, rfl⟩

/-- Without reset the framebuffer and the FSM's registers are those of the FSM's transition. -/
theorem cycle_hid_fb {p : Pins} (hp : p.rst = false) (u : State) :
    (cycle p u).hid = (fsmNext p u).hid ∧ (cycle p u).fb = (fsmNext p u).fb := by
  simp only [cycle, hp, Bool.false_eq_true, if_false]
  split <;> exact ⟨rfl, rfl⟩

theorem HoldsFb.fsmNext (hu : HoldsFb s u) (p : Pins) : HoldsFb s (fsmNext p u) ∨ (fsmNext p u).hid.ctl = .done := by
  unfold Machine.fsmNext
  rcases hu with ⟨hc, hheld, hfb⟩ | ⟨hc, hheld⟩ | ⟨hc, hheld⟩ | ⟨hc, hfb⟩ <;> simp only [hc]
  · unfold fsmLdCheck
    split
    · exact .inl (.inr (.inr (.inr ⟨rfl, hfb⟩)))
    · exact .inl (.inr (.inl ⟨rfl, hheld⟩))
  · unfold fsmLdClear
    split
    · split
      · exact .inr rfl
      · exact .inl (.inr (.inr (.inl ⟨rfl, hheld⟩)))
    · exact .inl (.inr (.inl ⟨hc, hheld⟩))
  · unfold fsmLdCopy
    split
    · split
      · exact .inr rfl
      · exact .inl (.inr (.inr (.inl ⟨hc, hheld⟩)))
    · exact .inl (.inr (.inr (.inl ⟨hc, hheld⟩)))
  · exact .inr rfl

theorem HoldsFb.cycle (hu : HoldsFb s u) {p : Pins} (hp : p.rst = false) (hnd : (cycle p u).hid.ctl ≠ .done) :
    HoldsFb s (cycle p u) := by
  obtain ⟨hhid, hfb⟩ := cycle_hid_fb hp u
  have hnext := (hu.fsmNext p).resolve_right (hhid ▸ hnd)
  rwa [HoldsFb, hhid, hfb]

theorem HoldsFb.runCycles {ps : List Pins} (hu : HoldsFb s u) (hrst : ∀ p ∈ ps, p.rst = false)
    (hnd : ∀ m, m ≤ ps.length → (runCycles (ps.take m) u).hid.ctl ≠ .done) : HoldsFb s (runCycles ps u) := by
  induction ps generalizing u with
  | nil => exact hu
  | cons p ps ih =>
    exact ih (hu.cycle (hrst p List.mem_cons_self) (hnd 1 (by simp))) (fun q hq => hrst q (List.mem_cons_of_mem p hq))
      fun m hm => hnd (m + 1) (Nat.succ_le_succ hm)

/-- Settles O60: the FSM holds the framebuffer of before the load until it is done, and is done with the reset one. -/
theorem framebufferReadsAreCommittedDuringALoad : Obligations.FramebufferReadsAreCommittedDuringALoad := by
  refine ⟨fun s len ps c hb hrst hnd => ?_, fun s bytes c hb hlen => ?_⟩
  · have hholds := (HoldsFb.requestLoad hb len).runCycles hrst hnd
    exact ⟨hholds.busy, hholds.fbPort c⟩
  · obtain ⟨hdone, hfb⟩ := (copied_load hb hlen).done
    rw [fbPort_of_not_loading (loading_of_done hdone), hfb]
    exact fbCell_fbClear _

end

end Sys2Proof.Machine
end
